-- ==== Sys2Proof/Word.lean ====
section
/-! DEFINITION. The word types of BmpEncoder: bytes of OUT and 32-bit registers and pixel words (R9). -/

namespace Sys2Proof

/-- One element of the output byte sequence (R9: "output element width 8 bits"). -/
abbrev Byte := BitVec 8

/-- A 32-bit register or pixel word (R9). -/
abbrev Word := BitVec 32

end Sys2Proof
end

