-- ==== Sys2Proof/Syntax.lean ====
section
/-! DEFINITION. The nine operations of spec/opcode_table.json, the codes that select them (R100, R101), and the statements
of HOST (R111, R40, R240). -/

namespace Sys2Proof

/-- One constructor per row of spec/opcode_table.json. No operation has an operand field (R100, R101, R103), so every term
is well-formed. -/
inductive Instr where
  /-- ENCODE: the command START (R190, R198). -/
  | encode
  /-- CHKDIM: validate WIDTH and HEIGHT (R121, R122). -/
  | chkdim
  /-- GEOM: stride, pixel array size, file length (R123 to R125). -/
  | geom
  /-- CHKLEN: validate PIXLEN (R126, R127). -/
  | chklen
  /-- ALLOC: the zero-initialised output buffer (R128 to R130). -/
  | alloc
  /-- WFH: the 14-byte file header (R140 to R145). -/
  | wfh
  /-- WDIB: the 40-byte DIB header and the start of the row loop (R146 to R158). -/
  | wdib
  /-- XPIX: transcode one pixel (R170 to R181). -/
  | xpix
  /-- RET: hand the buffer over (R193). -/
  | ret
  deriving DecidableEq, Repr

/-- What selects an operation: format H is the bit written to CTRL.START (R100), format S the 4-bit PHASE (R101). -/
inductive Code where
  /-- Format H. -/
  | command (bit : BitVec 1)
  /-- Format S. -/
  | phase (code : BitVec 4)
  deriving DecidableEq, Repr

/-- The named registers (R22 to R39); the register space has names and no addresses (R36, R44). -/
inductive RegName where
  | width | height | pixlen
  | ctrlStart | status | outlen
  | stride | pasize | flen | y | x | p
  deriving DecidableEq, Repr

/-- One thing HOST does (the statements of R111; the PIX read of R40; the collection of R112; RST of R240), or a turn it lets
pass (log 6). -/
inductive HostAction where
  /-- WR: write a named register. -/
  | writeReg (r : RegName) (v : Word)
  /-- WRPIX: write one word of PIX. -/
  | writePix (i : Word) (w : Word)
  /-- A write of one bit to CTRL.START; the value 1 is START (R39). -/
  | command (bit : BitVec 1)
  /-- WAIT: read STATUS until PHASE is not BUSY. -/
  | wait
  /-- RD: read a named register. -/
  | readReg (r : RegName)
  /-- Read one word of PIX (R40). -/
  | readPix (i : Word)
  /-- RDOUT: read one byte of OUT. -/
  | readOut (a : Word)
  /-- The last part of the pseudo-operation `encode`: read all of the output (R112, log 25). -/
  | collect
  /-- HOST does nothing and ENC may take one step (log 6). -/
  | pass
  /-- The reset input RST (R240). -/
  | rst
  deriving DecidableEq, Repr

end Sys2Proof
end

