-- ==== Sys2Proof/WellFormed.lean ====
section
/-! DEFINITION. Which codes select an operation. `Instr` itself has no operand field and needs no check (R103). -/

namespace Sys2Proof

/-- The code is one that some rule can produce: PHASE codes 12 to 15 are "never entered by any rule" (R31, R109). -/
def Code.isAssigned : Code → Bool
  | .command _ => true
  | .phase c => c.toNat ≤ 11

/-- The code selects an operation: CTRL.START = 0 "is not a command" (R109), and in IDLE, DONE, ERROR and HALT "ENC has no
step" (R31), so only the PHASE codes 1 to 8 do. -/
def Code.selectsOperation : Code → Bool
  | .command b => b == 1#1
  | .phase c => 1 ≤ c.toNat && c.toNat ≤ 8

/-- A well-formed code passes both checks. -/
def Code.wellFormed (c : Code) : Bool := c.isAssigned && c.selectsOperation

end Sys2Proof
end

