-- ==== Sys2Proof/Decode.lean ====
section
/-! DEFINITION. From a code to the operation it selects, total, rejecting by name (R100 to R103, R109), and back. -/

namespace Sys2Proof

/-- Why a code selects no operation. -/
inductive Reject where
  /-- CTRL.START = 0: "is not a command and does nothing" (R109). -/
  | noCommand
  /-- PHASE is IDLE, DONE, ERROR or HALT: "none; ENC has no step" (R31). -/
  | noMicroOperation (code : BitVec 4)
  /-- PHASE codes 12 to 15: "never entered by any rule" (R31). -/
  | unusedPhase (code : BitVec 4)
  deriving DecidableEq, Repr

/-- The operation that a PHASE code selects (R31, R101, R102). -/
def decodePhase (c : BitVec 4) : Except Reject Instr :=
  match c.toNat with
  | 1 => .ok .chkdim
  | 2 => .ok .geom
  | 3 => .ok .chklen
  | 4 => .ok .alloc
  | 5 => .ok .wfh
  | 6 => .ok .wdib
  | 7 => .ok .xpix
  | 8 => .ok .ret
  | 0 => .error (.noMicroOperation c)
  | 9 => .error (.noMicroOperation c)
  | 10 => .error (.noMicroOperation c)
  | 11 => .error (.noMicroOperation c)
  | _ => .error (.unusedPhase c)

/-- The operation that the bit written to CTRL.START selects (R39, R100). -/
def decodeCommand (b : BitVec 1) : Except Reject Instr :=
  if b = 1#1 then .ok .encode else .error .noCommand

/-- The decoder of both formats (R102). -/
def decode : Code → Except Reject Instr
  | .command b => decodeCommand b
  | .phase c => decodePhase c

/-- The code of an operation, from the table of R102. -/
def encode : Instr → Code
  | .encode => .command 1#1
  | .chkdim => .phase 1#4
  | .geom => .phase 2#4
  | .chklen => .phase 3#4
  | .alloc => .phase 4#4
  | .wfh => .phase 5#4
  | .wdib => .phase 6#4
  | .xpix => .phase 7#4
  | .ret => .phase 8#4

/-- The code that a number of spec/opcode_table.json stands for. The two formats are told apart by the row's width: fewer
than 4 bits is format H, 4 bits is format S. In a whole byte the number 1 is both ENCODE's and CHKDIM's: it is read as
ENCODE, and every other number as a PHASE code (DESIGN CHOICE, log 18). -/
def tableCode (nbits w : Nat) : Option Code :=
  if nbits < 4 then
    if w < 2 then some (.command (BitVec.ofNat 1 w)) else none
  else if 4 < nbits ∧ w = 1 then some (.command 1#1)
  else if w < 16 then some (.phase (BitVec.ofNat 4 w)) else none

/-- The instruction the decoder reads from a number of spec/opcode_table.json, none where it rejects. -/
def decodeTableWord (nbits w : Nat) : Option Instr :=
  match tableCode nbits w with
  | some c => (decode c).toOption
  | none => none

end Sys2Proof
end

