-- ==== Sys2Proof/Config.lean ====
section
/-! DEFINITION. What is fixed for every step: the parameters of R9 and R10, the constants of the algorithm (R21), and the
free values of the model. -/

namespace Sys2Proof.Config

/-- DIM_MAX: the largest admitted WIDTH and HEIGHT (R10, D4). -/
def dimMax : Nat := 2 ^ 31 - 1

/-- FLEN_MAX: the largest admitted file length (R10, D4). -/
def flenMax : Nat := 2 ^ 32 - 1

/-- The default of the OPEN parameter OUT_CAP (R10, D9). The capacity itself is the field `outCap` of State (log 4). -/
def outCapDefault : Nat := 2 ^ 32 - 1

/-- Bytes of the file header (R93). -/
def fileHeaderLength : Nat := 14

/-- Bytes of the DIB header, the value of its own first field (R94, R147). -/
def dibHeaderLength : Nat := 40

/-- The fixed pixel-data offset, 54 = 14 + 40 (R4, R144). -/
def pixelDataOffset : Nat := fileHeaderLength + dibHeaderLength

/-- The planes field (R150). -/
def planes : Nat := 1

/-- Bits per pixel (R151). -/
def bitsPerPixel : Nat := 24

/-- The compression code BI_RGB (R152). -/
def compression : Nat := 0

/-- Pixels per metre on both axes (R154, R155). -/
def pixelsPerMetre : Nat := 2835

/-- FREE VALUE (log 23): the n-th value that the spec leaves unspecified ("a model must treat the value as a draw (any
value) and no claim may depend on it", R50). It has no body: nothing can be proved of it. -/
opaque freeWord : Nat → Word

/-- FREE VALUE (log 10): the word that index i of PIX holds after the n-th reset and before HOST writes it ("unspecified",
R50). It depends on the reset and the index alone, since "reading the same index twice returns the same word" (R61). It has
no body: nothing can be proved of it. -/
opaque freePixWord : Nat → Nat → Word

/-- FREE VALUE (log 26): the byte that address a of OUT holds after the n-th reset and before ENC writes it ("unspecified",
R43, R50). It has no body: nothing can be proved of it. -/
opaque freeOutByte : Nat → Nat → Byte

end Sys2Proof.Config
end

