-- ==== Sys2Proof/Machine/State.lean ====
section
/-! DEFINITION. The state of one BmpEncoder instance (R20), the reasons a step can stop, the reset state (R50), and one
named update per group of fields. -/

namespace Sys2Proof.Machine

/-- The PHASE register (R30, R31). The unused codes 12 to 15 are left out (U16, log 21). -/
inductive Phase where
  | idle | chkdim | geom | chklen | alloc | wfh | wdib | xpix | ret | done | error | halt
  deriving DecidableEq, Repr

/-- The ERR register (R38). -/
inductive ErrCode where
  | none | invalidDimensions | bufferTooShort | outOfMemory
  deriving DecidableEq, Repr

/-- The two typed errors of the closed taxonomy (R210). -/
inductive TypedError where
  | invalidDimensions | bufferTooShort
  deriving DecidableEq, Repr

/-- What HOST gets back from one read (R252). -/
inductive Reply where
  | reg (r : RegName) (v : Word)
  | pixWord (i : Word) (w : Word)
  | outByte (a : Word) (b : Byte)
  deriving DecidableEq, Repr

/-- A byte memory: (address, byte) pairs, addresses strictly rising; an unlisted address has no value (log 2). -/
abbrev Memory := List Host.Cell

/-- Why the machine stops. -/
inductive Fault where
  /-- Raised by a turn with no host action left while PHASE is HALT: "HALT is a fault (rule R214)", "the state is never
  final" (R214, R232). Safe: the machine stops where the block has no step either (log 8). -/
  | haltedOutOfMemory
  /-- Raised by WFH, WDIB and XPIX storing at an OUT address outside 0 to OUT_CAP - 1, which does not exist (R43). Safe: no
  admitted operation reaches it (R74, log 12). -/
  | outAddressAbsent
  deriving DecidableEq, Repr

/-- Why a step is given no meaning. -/
inductive Refusal where
  /-- An instruction without a meaning yet; raised by exec's arms alone. Safe. -/
  | notModelled (mnemonic : String)
  /-- Raised by XPIX at an index not below PIXLEN: a model "must not give it one [meaning]" (R62). Safe (log 11). -/
  | pixIndexOutOfRange
  /-- Raised by XPIX at a PIX word that HOST has not written since reset: "refuse the run, not read a zero" (R249, U11). Safe
  (log 10). -/
  | pixWordNeverWritten
  /-- Raised by a host write to PIX while BUSY: "a model refuses it" (R246, U10). Safe. -/
  | pixWriteWhileBusy
  /-- Raised by a host read of OUT unless PHASE is DONE and the address is below OUTLEN: "outside the model" (R248, U9).
  Safe. -/
  | outReadOutsideModel
  /-- Raised by a host read of STRIDE, PASIZE, FLEN, Y, X or P: "Not readable by HOST" (R25 to R27, R33 to R35, R40). Safe
  (log 17). -/
  | hostNoAccess
  deriving DecidableEq, Repr

/-- The complete state (R20), then the model's own fields: `outCap` (log 4), `agenda` (log 5), `replies` (log 7), `draws`
(log 23) and `resets` (log 10, 26). -/
structure State where
  /-- WIDTH (R22). -/
  width : Word
  /-- HEIGHT (R23). -/
  height : Word
  /-- PIXLEN (R24). -/
  pixlen : Word
  /-- STRIDE (R25). -/
  stride : Word
  /-- PASIZE (R26). -/
  pasize : Word
  /-- FLEN (R27). -/
  flen : Word
  /-- PHASE (R30). -/
  phase : Phase
  /-- Y (R33). -/
  y : Word
  /-- X (R34). -/
  x : Word
  /-- P (R35). -/
  p : Word
  /-- ERR (R38). -/
  err : ErrCode
  /-- OUTLEN (R37). -/
  outlen : Word
  /-- PIX (R42) as bytes: byte 4i + k is byte k of word i (R63, log 19). -/
  pix : Memory
  /-- OUT (R43). -/
  out : Memory
  /-- The parameter OUT_CAP of this instance (R10); no step writes it. -/
  outCap : Nat
  /-- What HOST does next, oldest first. -/
  agenda : List HostAction
  /-- What HOST has got back, oldest first. -/
  replies : List Reply
  /-- How many free values were taken. -/
  draws : Nat
  /-- How often RST was applied: which unspecified contents PIX has where HOST wrote nothing, and OUT where ENC
  wrote nothing. -/
  resets : Nat
  deriving DecidableEq, Repr

/-- The machine right after reset (R50): PHASE = IDLE, ERR = NONE, OUTLEN = 0, the default OUT_CAP. The registers that R50
leaves unspecified are 0 (DESIGN CHOICE, unsafe, log 1); PIX and OUT list nothing (log 2). -/
def State.reset : State where
  width := 0
  height := 0
  pixlen := 0
  stride := 0
  pasize := 0
  flen := 0
  phase := .idle
  y := 0
  x := 0
  p := 0
  err := .none
  outlen := 0
  pix := []
  out := []
  outCap := Config.outCapDefault
  agenda := []
  replies := []
  draws := 0
  resets := 0

/-! Named updates: each writes the fields it names and no other. -/

/-- WIDTH <- v. -/
def State.withWidth (s : State) (v : Word) : State := { s with width := v }

/-- HEIGHT <- v. -/
def State.withHeight (s : State) (v : Word) : State := { s with height := v }

/-- PIXLEN <- v. -/
def State.withPixlen (s : State) (v : Word) : State := { s with pixlen := v }

/-- STRIDE, PASIZE and FLEN together (R124). -/
def State.withGeometry (s : State) (st pa fl : Word) : State := { s with stride := st, pasize := pa, flen := fl }

/-- PHASE <- v. -/
def State.withPhase (s : State) (v : Phase) : State := { s with phase := v }

/-- Y, X and P together (R158, R172). -/
def State.withCounters (s : State) (vy vx vp : Word) : State := { s with y := vy, x := vx, p := vp }

/-- ERR <- v. -/
def State.withErr (s : State) (v : ErrCode) : State := { s with err := v }

/-- OUTLEN <- v. -/
def State.withOutlen (s : State) (v : Word) : State := { s with outlen := v }

/-- The whole of PIX. -/
def State.withPix (s : State) (m : Memory) : State := { s with pix := m }

/-- The whole of OUT. -/
def State.withOut (s : State) (m : Memory) : State := { s with out := m }

/-- The coming host actions. -/
def State.withAgenda (s : State) (l : List HostAction) : State := { s with agenda := l }

/-- HOST gets one more reply. -/
def State.withReply (s : State) (r : Reply) : State := { s with replies := s.replies ++ [r] }

/-- The counter of free values. -/
def State.withDraws (s : State) (n : Nat) : State := { s with draws := n }

end Sys2Proof.Machine
end

