-- ==== Sys2Proof/Machine/Flags.lean ====
section
/-! DEFINITION. The block has no condition codes (R41): its only status bits are PHASE and ERR. This file holds their codes
(R31, R38), the STATUS view (R36) and the classes of PHASE that rules test (R16, R31, R40). -/

namespace Sys2Proof.Machine

/-- The code of a phase (R31). -/
def Phase.code : Phase → BitVec 4
  | .idle => 0#4
  | .chkdim => 1#4
  | .geom => 2#4
  | .chklen => 3#4
  | .alloc => 4#4
  | .wfh => 5#4
  | .wdib => 6#4
  | .xpix => 7#4
  | .ret => 8#4
  | .done => 9#4
  | .error => 10#4
  | .halt => 11#4

/-- The phase that a code names; none for the unused codes 12 to 15 (R31). -/
def Phase.ofCode (c : BitVec 4) : Option Phase :=
  match c.toNat with
  | 0 => some .idle
  | 1 => some .chkdim
  | 2 => some .geom
  | 3 => some .chklen
  | 4 => some .alloc
  | 5 => some .wfh
  | 6 => some .wdib
  | 7 => some .xpix
  | 8 => some .ret
  | 9 => some .done
  | 10 => some .error
  | 11 => some .halt
  | _ => none

/-- The code of an ERR value (R38). -/
def ErrCode.code : ErrCode → BitVec 2
  | .none => 0#2
  | .invalidDimensions => 1#2
  | .bufferTooShort => 2#2
  | .outOfMemory => 3#2

/-- The ERR value that records a typed error (R215: `ERR <- code(E)`). -/
def TypedError.errCode : TypedError → ErrCode
  | .invalidDimensions => .invalidDimensions
  | .bufferTooShort => .bufferTooShort

/-- BUSY is the predicate 1 <= PHASE <= 8 (R31). -/
def Phase.busy : Phase → Bool
  | .chkdim => true
  | .geom => true
  | .chklen => true
  | .alloc => true
  | .wfh => true
  | .wdib => true
  | .xpix => true
  | .ret => true
  | .idle => false
  | .done => false
  | .error => false
  | .halt => false

/-- The "idle" of R40: PHASE is IDLE, DONE or ERROR; there START is accepted (R190) and the operand registers are
writable. -/
def Phase.hostIdle : Phase → Bool
  | .idle => true
  | .done => true
  | .error => true
  | .chkdim => false
  | .geom => false
  | .chklen => false
  | .alloc => false
  | .wfh => false
  | .wdib => false
  | .xpix => false
  | .ret => false
  | .halt => false

/-- STATUS: bits 3:0 PHASE, bits 5:4 ERR, bits 31:6 zero (R36). -/
def State.status (s : State) : Word := 0#26 ++ s.err.code ++ s.phase.code

end Sys2Proof.Machine
end

