-- ==== Sys2Proof/Machine/Ops.lean ====
section
/-! DEFINITION. The named operations over memories and registers: MemRead and MemWrite (R13, R61, R66), ALLOC's zero fill
(R128), `raise` (R215), `halt` (R214), the reset event (R240, R241), and the draw of a free value (R50). -/

namespace Sys2Proof.Machine

/-! ### Byte memories -/

/-- The canonical form: addresses strictly rising. -/
abbrev Memory.wf (m : Memory) : Prop := m.Pairwise (fun c d => c.1 < d.1)

/-- The byte at an address; an unlisted address has no value (log 2). -/
def Memory.read : Memory → Nat → Option Byte
  | [], _ => none
  | c :: m, a => if a = c.1 then some c.2 else Memory.read m a

/-- `OUT[a] <- b` (R13), keeping the canonical form. -/
def Memory.write : Memory → Nat → Byte → Memory
  | [], a, v => [(a, v)]
  | c :: m, a, v =>
    if a < c.1 then (a, v) :: c :: m
    else if a = c.1 then (a, v) :: m
    else c :: Memory.write m a v

/-- MemWrite: the n bytes of v from address a on, least significant byte first (R66). -/
def Memory.writeLE : Memory → Nat → Nat → Nat → Memory
  | m, _, 0, _ => m
  | m, a, n + 1, v => Memory.writeLE (Memory.write m a (BitVec.ofNat 8 v)) (a + 1) n (v / 256)

/-- The number whose n bytes stand from address a on, least significant first; none if one of them has no value. -/
def Memory.readLE : Memory → Nat → Nat → Option Nat
  | _, _, 0 => some 0
  | m, a, n + 1 =>
    match Memory.read m a, Memory.readLE m (a + 1) n with
    | some b, some v => some (b.toNat + 256 * v)
    | _, _ => none

/-- `for a in 0 .. n - 1: OUT[a] <- 0` (R128). -/
def Memory.zeroFill (m : Memory) (n : Nat) : Memory :=
  (List.range n).map (fun a => (a, 0#8)) ++ m.filter (fun c => n ≤ c.1)

/-! ### The PIX space -/

/-- The word stored at word index i of PIX (R61), its bytes at 4i to 4i + 3, least significant first (R63). -/
def State.pixWord (s : State) (i : Word) : Option Word :=
  (Memory.readLE s.pix (4 * i.toNat) 4).map (BitVec.ofNat 32)

/-- What a read of word i of PIX by HOST finds: the word HOST wrote, or the unspecified word of R50, a free value (log 10). -/
def State.pixContents (s : State) (i : Word) : Word :=
  match s.pixWord i with
  | some w => w
  | none => Config.freePixWord s.resets i.toNat

/-- WRPIX: one whole word of PIX (R111, R42). -/
def State.storePixWord (s : State) (i w : Word) : State :=
  s.withPix (Memory.writeLE s.pix (4 * i.toNat) 4 w.toNat)

/-- MemRead(PIX, i, 4) as ENC performs it: defined only for i < PIXLEN (R62), and refused where HOST never wrote the word
(R249). -/
def State.memReadPix (s : State) (i : Word) : Except Refusal Word :=
  if i.toNat < s.pixlen.toNat then
    match s.pixWord i with
    | some w => .ok w
    | none => .error .pixWordNeverWritten
  else .error .pixIndexOutOfRange

/-! ### The OUT space -/

/-- What a read of address a of OUT by HOST finds: the byte ENC wrote, or the unspecified byte of R43 and R50, a free value
(DESIGN CHOICE, log 26). -/
def State.outContents (s : State) (a : Nat) : Byte :=
  match Memory.read s.out a with
  | some b => b
  | none => Config.freeOutByte s.resets a

/-- One `MemWrite(OUT, addr, size, value)` (R13). -/
structure Field where
  addr : Nat
  size : Nat
  value : Nat
  deriving DecidableEq, Repr

/-- The memory after the writes of a list of fields, in order. -/
def Memory.writeFields : Memory → List Field → Memory
  | m, [] => m
  | m, f :: fs => Memory.writeFields (Memory.writeLE m f.addr f.size f.value) fs

/-- The writes of one micro-operation to OUT, all together (R71); none where one of them lies outside the addresses 0 to
OUT_CAP - 1 that OUT has (R43, log 12). -/
def State.storeOut (s : State) (fs : List Field) : Option State :=
  if fs.all (fun f => f.addr + f.size ≤ s.outCap) then some (s.withOut (Memory.writeFields s.out fs)) else none

/-! ### Free values -/

/-- A free value, and the state after it was taken (log 23). -/
def State.draw (s : State) : Word × State := (Config.freeWord s.draws, s.withDraws (s.draws + 1))

/-- `REG <- v` for a natural v (R13: "v must fit the register's width"): the value v where it fits, and a free value where
no rule says what the register holds (log 13). -/
def State.natForReg (s : State) (v : Nat) : Word × State :=
  if v < 2 ^ 32 then (BitVec.ofNat 32 v, s) else s.draw

/-! ### Errors, halt, reset -/

/-- `raise E` (R215): ERR and PHASE, and nothing else. -/
def State.raise (s : State) (e : TypedError) : State := (s.withErr e.errCode).withPhase .error

/-- `halt OutOfMemory` (R214): ERR and PHASE, and nothing else. -/
def State.haltOutOfMemory (s : State) : State := (s.withErr .outOfMemory).withPhase .halt

/-- An accepted START (R190): ERR, OUTLEN and PHASE. It is also how ERROR is left: "ERROR is left by the next accepted
START", and "Nothing is restored, because nothing was saved" (R219). -/
def State.start (s : State) : State := ((s.withErr .none).withOutlen 0).withPhase .chkdim

/-- The reset event RST (R240, R241): PHASE = IDLE, ERR = NONE, OUTLEN = 0, every other register a free value, PIX and
OUT with new unspecified contents (U8, U12, log 3, 10, 26). The parameter OUT_CAP and HOST's own agenda and replies stay. -/
def State.applyRst (s : State) : State where
  width := Config.freeWord s.draws
  height := Config.freeWord (s.draws + 1)
  pixlen := Config.freeWord (s.draws + 2)
  stride := Config.freeWord (s.draws + 3)
  pasize := Config.freeWord (s.draws + 4)
  flen := Config.freeWord (s.draws + 5)
  phase := .idle
  y := Config.freeWord (s.draws + 6)
  x := Config.freeWord (s.draws + 7)
  p := Config.freeWord (s.draws + 8)
  err := .none
  outlen := 0
  pix := []
  out := []
  outCap := s.outCap
  agenda := s.agenda
  replies := s.replies
  draws := s.draws + 9
  resets := s.resets + 1

end Sys2Proof.Machine
end

