-- ==== Sys2Proof/Machine/Operands.lean ====
section
/-! DEFINITION. What the micro-operations compute from their operands: the channels of a pixel word (R90, R91), the exact
geometry (R123, R131), the two address computations (R180), and the header fields (R93, R94). -/

namespace Sys2Proof.Machine

/-! ### Channels of a pixel word (R91); bits 31:24, alpha, are used by no rule -/

/-- `r = w[7:0]`. -/
def red (w : Word) : Byte := w.extractLsb' 0 8

/-- `g = w[15:8]`. -/
def green (w : Word) : Byte := w.extractLsb' 8 8

/-- `b = w[23:16]`. -/
def blue (w : Word) : Byte := w.extractLsb' 16 8

/-! ### Geometry, exact on naturals (R123) -/

/-- `s = ((24 * WIDTH + 31) div 32) * 4`. -/
def strideOf (w : Nat) : Nat := ((24 * w + 31) / 32) * 4

/-- `a = s * HEIGHT`. -/
def pixelArraySizeOf (w h : Nat) : Nat := strideOf w * h

/-- `f = 54 + a`. -/
def fileLengthOf (w h : Nat) : Nat := Config.pixelDataOffset + pixelArraySizeOf w h

/-! ### Addresses and fields -/

/-- `d = 54 + Y * STRIDE + 3 * X`, the OUT address of a pixel's first byte (R171, R180). -/
def pixelAddress (y stride x : Nat) : Nat := Config.pixelDataOffset + y * stride + 3 * x

/-- The three bytes of a pixel at increasing addresses: blue, green, red (R171, R173). -/
def pixelFields (d : Nat) (w : Word) : List Field :=
  [⟨d, 1, (blue w).toNat⟩, ⟨d + 1, 1, (green w).toNat⟩, ⟨d + 2, 1, (red w).toNat⟩]

/-- The fields of the file header (R93, R141 to R144). -/
def fileHeaderFields (flen : Nat) : List Field :=
  [⟨0, 1, 0x42⟩, ⟨1, 1, 0x4D⟩,
   ⟨2, 4, flen⟩,
   ⟨6, 4, 0⟩,
   ⟨10, 4, Config.pixelDataOffset⟩]

/-- The fields of the DIB header (R94, R147 to R157). -/
def dibHeaderFields (width height pasize : Nat) : List Field :=
  [⟨14, 4, Config.dibHeaderLength⟩,
   ⟨18, 4, width⟩,
   ⟨22, 4, height⟩,
   ⟨26, 2, Config.planes⟩,
   ⟨28, 2, Config.bitsPerPixel⟩,
   ⟨30, 4, Config.compression⟩,
   ⟨34, 4, pasize⟩,
   ⟨38, 4, Config.pixelsPerMetre⟩,
   ⟨42, 4, Config.pixelsPerMetre⟩,
   ⟨46, 4, 0⟩,
   ⟨50, 4, 0⟩]

end Sys2Proof.Machine
end

