-- ==== Sys2Proof/Machine/Header.lean ====
section
/-! DEFINITION. The header constructor: WFH and WDIB (41_header_constructor.md). -/

namespace Sys2Proof.Machine

/-- WFH: the five field writes, then `PHASE <- WDIB` (R140 to R145). -/
def execWfh (s : State) : Host.Outcome State Fault Refusal :=
  match s.storeOut (fileHeaderFields s.flen.toNat) with
  | some t => .next (t.withPhase .wdib)
  | none => .fault .outAddressAbsent

/-- `HEIGHT - 1`, "taken only when the operand is >= 1" (R131); a free value where HEIGHT is 0, a case CHKDIM has ruled out
(log 14). -/
def lastRow (s : State) : Word × State :=
  if s.height.toNat = 0 then s.draw else (BitVec.ofNat 32 (s.height.toNat - 1), s)

/-- WDIB: the eleven field writes (R146 to R157), then the start of the row loop (R158). -/
def execWdib (s : State) : Host.Outcome State Fault Refusal :=
  match s.storeOut (dibHeaderFields s.width.toNat s.height.toNat s.pasize.toNat) with
  | some t => .next (((lastRow t).2.withCounters (lastRow t).1 0 0).withPhase .xpix)
  | none => .fault .outAddressAbsent

end Sys2Proof.Machine
end

