-- ==== Sys2Proof/Machine/Operation.lean ====
section
/-! DEFINITION. The two ends of the ENCODE operation: START and RET (43_encode_operation.md). -/

namespace Sys2Proof.Machine

/-- ENCODE: START is accepted in IDLE, DONE and ERROR (R190), and ignored while BUSY or in HALT: "it changes no state and is
not remembered" (R198). -/
def execEncode (s : State) : Host.Outcome State Fault Refusal :=
  if s.phase.hostIdle then .next s.start else .next s

/-- RET: `OUTLEN <- FLEN ; PHASE <- DONE` (R193). -/
def execRet (s : State) : Host.Outcome State Fault Refusal :=
  .next ((s.withOutlen s.flen).withPhase .done)

end Sys2Proof.Machine
end

