-- ==== Sys2Proof/Machine/Transcode.lean ====
section
/-! DEFINITION. The row transcoder: XPIX (42_row_transcoder.md). -/

namespace Sys2Proof.Machine

/-- The advance (R172). `X < WIDTH - 1` is written X + 1 < WIDTH, and no counter leaves its 32 bits: P is below PIXLEN when
XPIX reads (R62), X below WIDTH - 1 when it is raised. With WIDTH = 0, a case CHKDIM has ruled out and for which WIDTH - 1 is
not taken (R131), the model takes the `else` branch (DESIGN CHOICE, unsafe, log 24). -/
def advance (s : State) : State :=
  if s.x.toNat + 1 < s.width.toNat then s.withCounters s.y (s.x + 1) (s.p + 1)
  else if 0 < s.y.toNat then s.withCounters (s.y - 1) 0 (s.p + 1)
  else (s.withCounters s.y 0 (s.p + 1)).withPhase .ret

/-- XPIX: the transfer (R171), then the advance (R172), in one step (R170). -/
def execXpix (s : State) : Host.Outcome State Fault Refusal :=
  match s.memReadPix s.p with
  | .error r => .refused r
  | .ok w =>
    match s.storeOut (pixelFields (pixelAddress s.y.toNat s.stride.toNat s.x.toNat) w) with
    | some t => .next (advance t)
    | none => .fault .outAddressAbsent

end Sys2Proof.Machine
end

