-- ==== Sys2Proof/Machine/Validate.lean ====
section
/-! DEFINITION. The validation and geometry micro-operations CHKDIM, GEOM, CHKLEN, ALLOC (40_validate_geometry.md). Each is
selected by PHASE (R101) and names its own successor (R32); none tests PHASE itself (log 20). -/

namespace Sys2Proof.Machine

/-- CHKDIM: the zero check (R121), then the range check and the exit (R122). -/
def execChkdim (s : State) : Host.Outcome State Fault Refusal :=
  if s.width.toNat = 0 ∨ s.height.toNat = 0 then .next (s.raise .invalidDimensions)
  else if Config.dimMax < s.width.toNat ∨ Config.dimMax < s.height.toNat then .next (s.raise .invalidDimensions)
  else .next (s.withPhase .geom)

/-- GEOM: the exact computation (R123), the range check and the exit (R124). PASIZE and FLEN always fit once the check
passed; STRIDE does unless HEIGHT is 0, a case CHKDIM has ruled out (log 13). -/
def execGeom (s : State) : Host.Outcome State Fault Refusal :=
  let w := s.width.toNat
  let h := s.height.toNat
  if Config.flenMax < fileLengthOf w h then .next (s.raise .invalidDimensions)
  else
    let st := s.natForReg (strideOf w)
    .next ((st.2.withGeometry st.1 (BitVec.ofNat 32 (pixelArraySizeOf w h)) (BitVec.ofNat 32 (fileLengthOf w h))).withPhase
      .chklen)

/-- CHKLEN (R126); a longer buffer is accepted (R127). -/
def execChklen (s : State) : Host.Outcome State Fault Refusal :=
  if s.pixlen.toNat < s.width.toNat * s.height.toNat then .next (s.raise .bufferTooShort)
  else .next (s.withPhase .alloc)

/-- ALLOC (R128, R130). -/
def execAlloc (s : State) : Host.Outcome State Fault Refusal :=
  if s.outCap < s.flen.toNat then .next s.haltOutOfMemory
  else .next ((s.withOut (Memory.zeroFill s.out s.flen.toNat)).withPhase .wfh)

end Sys2Proof.Machine
end

