-- ==== Sys2Proof/Machine/Dispatch.lean ====
section
/-! DEFINITION. The dispatch: one arm per operation of spec/opcode_table.json. -/

namespace Sys2Proof.Machine

def exec (i : Instr) (s : State) : Host.Outcome State Fault Refusal :=
  match i with
  | .encode => Sys2Proof.Machine.execEncode s
  | .chkdim => Sys2Proof.Machine.execChkdim s
  | .geom => Sys2Proof.Machine.execGeom s
  | .chklen => Sys2Proof.Machine.execChklen s
  | .alloc => Sys2Proof.Machine.execAlloc s
  | .wfh => Sys2Proof.Machine.execWfh s
  | .wdib => Sys2Proof.Machine.execWdib s
  | .xpix => Sys2Proof.Machine.execXpix s
  | .ret => Sys2Proof.Machine.execRet s

end Sys2Proof.Machine
end

