-- ==== Sys2Proof/Machine/HostPort.lean ====
section
/-! DEFINITION. What HOST may do at the block's interface (R40, R111, R252), except the commands that make ENC move, which
stand in Turn.lean. -/

namespace Sys2Proof.Machine

/-- The registers HOST may read, with what it reads: WIDTH, HEIGHT, PIXLEN, STATUS, OUTLEN (R40), and CTRL.START, which
"returns 0" (R39). -/
def State.hostView (s : State) : RegName → Option Word
  | .width => some s.width
  | .height => some s.height
  | .pixlen => some s.pixlen
  | .ctrlStart => some 0
  | .status => some s.status
  | .outlen => some s.outlen
  | .stride => none
  | .pasize => none
  | .flen => none
  | .y => none
  | .x => none
  | .p => none

/-- The registers HOST may name in a write: the operand registers and CTRL.START (R40), and STATUS, where "a HOST write ...
is ignored" (R36). -/
def hostMayWrite : RegName → Bool
  | .width => true
  | .height => true
  | .pixlen => true
  | .status => true
  | .ctrlStart => true
  | .outlen => false
  | .stride => false
  | .pasize => false
  | .flen => false
  | .y => false
  | .x => false
  | .p => false

/-- The registers HOST may name in a read (R40). -/
def hostMayRead : RegName → Bool
  | .width => true
  | .height => true
  | .pixlen => true
  | .ctrlStart => true
  | .status => true
  | .outlen => true
  | .stride => false
  | .pasize => false
  | .flen => false
  | .y => false
  | .x => false
  | .p => false

/-- A host action that names only what the interface offers (R40, R111). -/
def hostActionWellFormed : HostAction → Bool
  | .writeReg r _ => hostMayWrite r
  | .readReg r => hostMayRead r
  | .writePix _ _ => true
  | .command _ => true
  | .wait => true
  | .readPix _ => true
  | .readOut _ => true
  | .collect => true
  | .pass => true
  | .rst => true

/-- The operand registers are written in IDLE, DONE and ERROR; while BUSY or in HALT the write is ignored (R40, R245). -/
def State.hostSetOperand (s t : State) : State := if s.phase.hostIdle then t else s

/-- RD (R111, R40); a register that is "not readable by HOST" gives no reply (R25 to R27, R33 to R35, log 17). -/
def hostReadReg (r : RegName) (s : State) : Host.Outcome State Fault Refusal :=
  match s.hostView r with
  | some v => .next (s.withReply (.reg r v))
  | none => .refused .hostNoAccess

/-- WRPIX (R111): outside the model while BUSY (R246), a write otherwise, in HALT too (R40, log 15). -/
def hostWritePix (i w : Word) (s : State) : Host.Outcome State Fault Refusal :=
  if s.phase.busy then .refused .pixWriteWhileBusy else .next (s.storePixWord i w)

/-- A host read of PIX, allowed in every phase and at every index (R40, R246, log 16). Where HOST never wrote the word the
reply is the unspecified word of R50 (log 10). -/
def hostReadPix (i : Word) (s : State) : Host.Outcome State Fault Refusal :=
  .next (s.withReply (.pixWord i (s.pixContents i)))

/-- RDOUT: only when PHASE = DONE and the address is below OUTLEN; any other read is "outside the model" (R248). Where ENC
never wrote the byte, which no operation leaves so, the reply is a free value (DESIGN CHOICE, log 26). -/
def hostReadOut (a : Word) (s : State) : Host.Outcome State Fault Refusal :=
  if s.phase = .done ∧ a.toNat < s.outlen.toNat then .next (s.withReply (.outByte a (s.outContents a.toNat)))
  else .refused .outReadOutsideModel

/-- What WAIT gets back once PHASE is not BUSY: STATUS, with PHASE and ERR (R111, R252). -/
def hostWaitOver (s : State) : Host.Outcome State Fault Refusal :=
  .next (s.withReply (.reg .status s.status))

/-- The reads `RDOUT 0` to `RDOUT n - 1` (R112). -/
def readsOfOut (n : Nat) : List HostAction := (List.range n).map (fun a => .readOut (BitVec.ofNat 32 a))

/-- The collection (R112): in DONE, HOST reads every byte of the output; in ERROR and HALT there is nothing to read. Before
the operation has ended, where R112 does not come to it, it reads nothing (log 25). -/
def hostCollect (rest : List HostAction) (s : State) : Host.Outcome State Fault Refusal :=
  if s.phase = .done then .next (s.withAgenda (readsOfOut s.outlen.toNat ++ rest)) else .next (s.withAgenda rest)

/-- What the call `encode(pixels, width, height)` gives back (R112). -/
inductive CallResult where
  /-- The byte sequence of the output. -/
  | bytes (file : List Byte)
  /-- The typed failure named by STATUS.ERR, and no bytes. -/
  | failure (e : TypedError)
  /-- "There is no result": the fatal stop. -/
  | noResult
  deriving DecidableEq, Repr

/-- The bytes of OUT among the replies, in order. -/
def bytesOf : List Reply → List Byte
  | [] => []
  | .outByte _ b :: l => b :: bytesOf l
  | .reg _ _ :: l => bytesOf l
  | .pixWord _ _ :: l => bytesOf l

/-- The result of the call from what HOST got back since START: the STATUS that ended WAIT, then the bytes (R112). -/
def callResultOf : List Reply → CallResult
  | .reg .status v :: l =>
    if v.extractLsb' 0 4 = Phase.code .done then .bytes (bytesOf l)
    else if v.extractLsb' 0 4 = Phase.code .error then
      if v.extractLsb' 4 2 = ErrCode.code .invalidDimensions then .failure .invalidDimensions
      else if v.extractLsb' 4 2 = ErrCode.code .bufferTooShort then .failure .bufferTooShort
      else .noResult
    else .noResult
  | _ => .noResult

/-- One WRPIX for each pixel, from index i on (R112). -/
def encodeCallFrom (i : Nat) : List Word → List HostAction
  | [] => []
  | w :: ws => .writePix (BitVec.ofNat 32 i) w :: encodeCallFrom (i + 1) ws

/-- The host statements that the call `encode(pixels, width, height)` expands to (R112), the collection last. A
buffer longer than 2^32 - 1 words is given as its first 2^32 - 1 words, which is "long enough" (D3). -/
def encodeCall (pixels : List Word) (width height : Word) : List HostAction :=
  let words := pixels.take (2 ^ 32 - 1)
  encodeCallFrom 0 words ++
    [.writeReg .width width, .writeReg .height height, .writeReg .pixlen (BitVec.ofNat 32 words.length),
     .command 1#1, .wait, .collect]

end Sys2Proof.Machine
end

