-- ==== Sys2Proof/Machine/Turn.lean ====
section
/-! DEFINITION. Who moves next. HOST moves first if its agenda holds an action; ENC moves when the agenda is empty, when
HOST waits, and when HOST lets a turn pass (log 5, 6). -/

namespace Sys2Proof.Machine

/-- ENC's turn: the micro-operation that PHASE selects (R30, R101). Where PHASE selects none, ENC "merely has no step"
(R231) and the state stays, but in HALT, which "is never final" (R197, R232), the machine faults (log 8, 9). -/
def encTurn (s : State) : Host.Outcome State Fault Refusal :=
  match decode (.phase s.phase.code) with
  | .ok i => exec i s
  | .error _ => if s.phase = .halt then .fault .haltedOutOfMemory else .next s

/-- A write to CTRL.START: 1 runs ENCODE, "a write of 0 does nothing" (R39). -/
def commandTurn (b : BitVec 1) (s : State) : Host.Outcome State Fault Refusal :=
  match decode (.command b) with
  | .ok i => exec i s
  | .error _ => .next s

/-- WR (R111, R40). CTRL.START is one bit, bit 0 of what is written (R12, R39, log 17). A write to STATUS "is ignored" (R36);
OUTLEN is "read-only to HOST" (R37) and ENC is "the only agent that writes" the geometry and sequencer registers (R17), so a
write there changes nothing either (log 17). -/
def hostWriteReg (r : RegName) (v : Word) (s : State) : Host.Outcome State Fault Refusal :=
  match r with
  | .width => .next (s.hostSetOperand (s.withWidth v))
  | .height => .next (s.hostSetOperand (s.withHeight v))
  | .pixlen => .next (s.hostSetOperand (s.withPixlen v))
  | .ctrlStart => commandTurn (v.extractLsb' 0 1) s
  | .status => .next s
  | .outlen => .next s
  | .stride => .next s
  | .pasize => .next s
  | .flen => .next s
  | .y => .next s
  | .x => .next s
  | .p => .next s

/-- WAIT: while BUSY, ENC takes a step and HOST goes on waiting; then HOST has STATUS and WAIT is over (R111, R252). -/
def waitTurn (rest : List HostAction) (s : State) : Host.Outcome State Fault Refusal :=
  if s.phase.busy then encTurn s else hostWaitOver (s.withAgenda rest)

/-- A turn HOST lets pass: ENC takes its step if it has one. -/
def passTurn (s : State) : Host.Outcome State Fault Refusal :=
  if s.phase.busy then encTurn s else .next s

/-- One turn of the whole block. -/
def turn (s : State) : Host.Outcome State Fault Refusal :=
  match s.agenda with
  | [] => encTurn s
  | .writeReg r v :: rest => hostWriteReg r v (s.withAgenda rest)
  | .writePix i w :: rest => hostWritePix i w (s.withAgenda rest)
  | .command b :: rest => commandTurn b (s.withAgenda rest)
  | .wait :: rest => waitTurn rest s
  | .readReg r :: rest => hostReadReg r (s.withAgenda rest)
  | .readPix i :: rest => hostReadPix i (s.withAgenda rest)
  | .readOut a :: rest => hostReadOut a (s.withAgenda rest)
  | .collect :: rest => hostCollect rest s
  | .pass :: rest => passTurn (s.withAgenda rest)
  | .rst :: rest => .next (s.withAgenda rest).applyRst

/-- Place a code where the next turn takes its operation from: a command at the head of HOST's agenda, a phase in PHASE,
with a passed turn before whatever HOST had in mind. -/
def placeCode (c : Code) (s : State) : State :=
  match c with
  | .command b => s.withAgenda (.command b :: s.agenda)
  | .phase p =>
    match Phase.ofCode p with
    | some q => (s.withPhase q).withAgenda (if s.agenda = [] then [] else .pass :: s.agenda)
    | none => s

end Sys2Proof.Machine
end

