-- ==== Sys2Proof/Machine/Step.lean ====
section
/-! DEFINITION. One step of the machine, and the placing of one instruction for the next step. -/

namespace Sys2Proof.Machine

/-- One step: one action of HOST or one micro-operation of ENC (R17, R71, D20). -/
def step (s : State) : Host.Outcome State Fault Refusal := turn s

/-- The state with an instruction of spec/opcode_table.json placed so that the very next step runs it: the block fetches
nothing (R29, R80), so a command stands at the head of HOST's agenda and a micro-operation in PHASE (log 5, 18). -/
def State.withFetchWord (s : State) (nbits w : Nat) : State :=
  match tableCode nbits w with
  | some c => placeCode c s
  | none => s

end Sys2Proof.Machine
end

