-- ==== Sys2Proof/Machine/BigStep.lean ====
section
/-! DEFINITION. The normative big-step meaning of ENCODE (R18, R191), written apart from the micro-operations, with the end
state it gives (R191) and the step counts of R192. -/

namespace Sys2Proof.Machine

/-- What one operation yields (R191), or that the model gives the run no meaning (R249). -/
inductive EncodeResult where
  | done (file : List Byte)
  | error (e : TypedError)
  | halt
  /-- The operation would read a PIX word HOST never wrote: "refuse the run, not read a zero" (R249, log 10). -/
  | refused
  deriving DecidableEq, Repr

/-- The n bytes of v, least significant first; `le16` and `le32` of R191 are n = 2 and n = 4. -/
def leBytes : Nat → Nat → List Byte
  | 0, _ => []
  | n + 1, v => BitVec.ofNat 8 v :: leBytes n (v / 256)

/-- The 54 header bytes: `file[0..53]` of R191. -/
def bmpHeader (w h : Nat) : List Byte :=
  let a := strideOf w * h
  [0x42#8, 0x4D#8] ++ leBytes 4 (54 + a) ++ leBytes 4 0 ++ leBytes 4 54
    ++ leBytes 4 40 ++ leBytes 4 w ++ leBytes 4 h ++ leBytes 2 1 ++ leBytes 2 24 ++ leBytes 4 0 ++ leBytes 4 a
    ++ leBytes 4 2835 ++ leBytes 4 2835 ++ leBytes 4 0 ++ leBytes 4 0

/-- One pixel of the file: blue, green, red (R191: w[23:16], w[15:8], w[7:0]). -/
def bmpPixel (w : Word) : List Byte := [blue w, green w, red w]

/-- Destination row y: the pixels of source row H - 1 - y from left to right, then zero bytes up to the stride (R191, R95). -/
def bmpRow (w h : Nat) (pix : Nat → Word) (y : Nat) : List Byte :=
  (List.range w).flatMap (fun x => bmpPixel (pix ((h - 1 - y) * w + x))) ++ List.replicate (strideOf w - 3 * w) 0#8

/-- The whole file of an admitted operation (R191, R92). -/
def bmpFile (w h : Nat) (pix : Nat → Word) : List Byte :=
  bmpHeader w h ++ (List.range h).flatMap (bmpRow w h pix)

/-- `Encode(W, H, L, pix)` for a given OUT_CAP (R191). -/
def encodeResult (outCap w h l : Nat) (pix : Nat → Word) : EncodeResult :=
  if w = 0 ∨ h = 0 then .error .invalidDimensions
  else if Config.dimMax < w ∨ Config.dimMax < h then .error .invalidDimensions
  else if Config.flenMax < 54 + strideOf w * h then .error .invalidDimensions
  else if l < w * h then .error .bufferTooShort
  else if outCap < 54 + strideOf w * h then .halt
  else .done (bmpFile w h pix)

/-- How many ENC steps follow the accepted START (R192). -/
def encodeSteps (outCap w h l : Nat) : Nat :=
  if w = 0 ∨ h = 0 then 1
  else if Config.dimMax < w ∨ Config.dimMax < h then 1
  else if Config.flenMax < 54 + strideOf w * h then 2
  else if l < w * h then 3
  else if outCap < 54 + strideOf w * h then 4
  else 7 + w * h

/-- The contents of PIX as the big-step function takes them. -/
def State.pixels (s : State) (i : Nat) : Word := s.pixContents (BitVec.ofNat 32 i)

/-- HOST has written every PIX word that an operation of WIDTH by HEIGHT reads (R243, point 2). -/
abbrev State.PixelsWritten (s : State) : Prop :=
  ∀ i, i < s.width.toNat * s.height.toNat → (s.pixWord (BitVec.ofNat 32 i)).isSome = true

/-- `Encode` of the operands and the PIX contents as they stand in s (R190), refused where an admitted operation would read a
word HOST never wrote (R249). -/
def State.encodeMeaning (s : State) : EncodeResult :=
  match encodeResult s.outCap s.width.toNat s.height.toNat s.pixlen.toNat s.pixels with
  | .done file => if s.PixelsWritten then .done file else .refused
  | r => r

/-- The step count of R192 for the operands as they stand in s. -/
def State.encodeStepCount (s : State) : Nat :=
  encodeSteps s.outCap s.width.toNat s.height.toNat s.pixlen.toNat

/-- The end state that R191 gives: s is the state before START and t the state after the operation. A refused run has none. -/
def EndState (s t : State) (r : EncodeResult) : Prop :=
  (t.width = s.width ∧ t.height = s.height ∧ t.pixlen = s.pixlen ∧ t.pix = s.pix) ∧
  match r with
  | .done file =>
    t.phase = .done ∧ t.err = .none ∧ t.outlen.toNat = file.length ∧
      ∀ a, a < file.length → Memory.read t.out a = file[a]?
  | .error e => t.phase = .error ∧ t.err = e.errCode ∧ t.outlen = 0 ∧ t.out = s.out
  | .halt => t.phase = .halt ∧ t.err = .outOfMemory ∧ t.outlen = 0 ∧ t.out = s.out
  | .refused => False

/-- What the call `encode` gives back for a result of the big-step function (R112). -/
def EncodeResult.callResult : EncodeResult → CallResult
  | .done file => .bytes file
  | .error e => .failure e
  | .halt => .noResult
  | .refused => .noResult

end Sys2Proof.Machine
end

