-- ==== Sys2Proof/Safety.lean ====
section
/-! DEFINITION. What counts as a safe run, in the terms the statements use: the invariants of the block, the phase graph of
R32, and the boot requirement of R243. -/

namespace Sys2Proof.Machine

/-- The BUSY phases after CHKDIM: the dimensions were found in range (R122). -/
def Phase.pastChkdim : Phase → Bool
  | .geom => true
  | .chklen => true
  | .alloc => true
  | .wfh => true
  | .wdib => true
  | .xpix => true
  | .ret => true
  | _ => false

/-- The BUSY phases after GEOM: the geometry registers hold this operation's values (R28). -/
def Phase.pastGeom (q : Phase) : Bool := q.pastChkdim && q != .geom

/-- The BUSY phases after CHKLEN (R126). -/
def Phase.pastChklen (q : Phase) : Bool := q.pastGeom && q != .chklen

/-- The BUSY phases after ALLOC (R128). -/
def Phase.pastAlloc (q : Phase) : Bool := q.pastChklen && q != .alloc

/-- WFH was performed: WDIB, XPIX, RET and DONE. -/
def Phase.pastWfh : Phase → Bool
  | .wdib => true
  | .xpix => true
  | .ret => true
  | .done => true
  | _ => false

/-- WDIB was performed: XPIX, RET and DONE. -/
def Phase.pastWdib : Phase → Bool
  | .xpix => true
  | .ret => true
  | .done => true
  | _ => false

/-- The control and geometry invariant: what holds after every step from reset. -/
structure State.Inv (s : State) : Prop where
  /-- PIX is in canonical form. -/
  pixCanonical : Memory.wf s.pix
  /-- OUT is in canonical form. -/
  outCanonical : Memory.wf s.out
  /-- OUT has the addresses 0 to OUT_CAP - 1 (R43). -/
  outInside : ∀ c, c ∈ s.out → c.1 < s.outCap
  /-- "ERR is not NONE exactly when PHASE is ERROR or HALT" (R38). -/
  errRecorded : s.err ≠ .none ↔ s.phase = .error ∨ s.phase = .halt
  /-- "ERR = OutOfMemory exactly when PHASE = HALT" (R38). -/
  haltRecorded : s.err = .outOfMemory ↔ s.phase = .halt
  /-- OUTLEN is 0 but in DONE (R37, R199). -/
  outlenAbsent : s.phase ≠ .done → s.outlen = 0
  /-- In DONE, OUTLEN is FLEN, at least 58, 2 modulo 4, and every byte below it has a value (R37, R193, R199, R200). -/
  outlenDone : s.phase = .done →
    s.outlen = s.flen ∧ 58 ≤ s.outlen.toNat ∧ s.outlen.toNat % 4 = 2 ∧
      ∀ a, a < s.outlen.toNat → (Memory.read s.out a).isSome
  /-- Past CHKDIM both dimensions are 1 to DIM_MAX (R121, R122). -/
  dimensions : s.phase.pastChkdim → 1 ≤ s.width.toNat ∧ s.width.toNat ≤ Config.dimMax ∧
    1 ≤ s.height.toNat ∧ s.height.toNat ≤ Config.dimMax
  /-- Past GEOM the geometry registers hold the exact values (R123, R124). -/
  geometry : s.phase.pastGeom → s.stride.toNat = strideOf s.width.toNat ∧
    s.pasize.toNat = pixelArraySizeOf s.width.toNat s.height.toNat ∧
    s.flen.toNat = fileLengthOf s.width.toNat s.height.toNat
  /-- Past CHKLEN the buffer is long enough (R126). -/
  buffer : s.phase.pastChklen → s.width.toNat * s.height.toNat ≤ s.pixlen.toNat
  /-- Past ALLOC the file fits OUT and every byte of it has a value (R128, R130). -/
  allocated : s.phase.pastAlloc → s.flen.toNat ≤ s.outCap ∧ ∀ a, a < s.flen.toNat → (Memory.read s.out a).isSome
  /-- In XPIX the counters name a pixel, and P = (HEIGHT - 1 - Y) * WIDTH + X (R33, R34, R35, R174). -/
  counters : s.phase = .xpix → s.y.toNat < s.height.toNat ∧ s.x.toNat < s.width.toNat ∧
    s.p.toNat = (s.height.toNat - 1 - s.y.toNat) * s.width.toNat + s.x.toNat

/-- The header fields that R200 lists, from the step that writes them on. -/
structure State.HeaderInv (s : State) : Prop where
  /-- OUT[0] = 0x42, OUT[1] = 0x4D, the number at 2 is FLEN, the number at 10 is 54. -/
  fileHeader : s.phase.pastWfh → Memory.read s.out 0 = some 0x42#8 ∧ Memory.read s.out 1 = some 0x4D#8 ∧
    Memory.readLE s.out 2 4 = some s.flen.toNat ∧ Memory.readLE s.out 10 4 = some 54
  /-- The number at 14 is 40, the number at 34 is PASIZE, and FLEN = 54 + PASIZE. -/
  dibHeader : s.phase.pastWdib → Memory.readLE s.out 14 4 = some 40 ∧
    Memory.readLE s.out 34 4 = some s.pasize.toNat ∧ s.flen.toNat = 54 + s.pasize.toNat

/-- Past ALLOC every padding byte is 0 (R129, R175). -/
def State.PaddingInv (s : State) : Prop :=
  s.phase.pastAlloc → ∀ y k, y < s.height.toNat → 3 * s.width.toNat ≤ k → k < s.stride.toNat →
    Memory.read s.out (54 + y * s.stride.toNat + k) = some 0#8

/-- The phase graph of R32, but for reset: "No other transition exists". -/
def phaseEdge : Phase → Phase → Bool
  | .idle, .chkdim => true
  | .done, .chkdim => true
  | .error, .chkdim => true
  | .chkdim, .geom => true
  | .chkdim, .error => true
  | .geom, .chklen => true
  | .geom, .error => true
  | .chklen, .alloc => true
  | .chklen, .error => true
  | .alloc, .wfh => true
  | .alloc, .halt => true
  | .wfh, .wdib => true
  | .wdib, .xpix => true
  | .xpix, .xpix => true
  | .xpix, .ret => true
  | .ret, .done => true
  | _, _ => false

/-- The registers and memories that ENC never writes: WIDTH, HEIGHT, PIXLEN and PIX (R40, R196), with OUT_CAP and what
belongs to HOST, the unspecified contents of PIX among them. -/
def SameHostSide (s t : State) : Prop :=
  t.width = s.width ∧ t.height = s.height ∧ t.pixlen = s.pixlen ∧ t.pix = s.pix ∧
    t.resets = s.resets ∧
    t.outCap = s.outCap ∧ t.agenda = s.agenda ∧ t.replies = s.replies

/-- The registers and the memory that ENC alone writes: OUT, the geometry registers, the sequencer registers and the status
(R17, R40). -/
def SameEncSide (s t : State) : Prop :=
  t.out = s.out ∧ t.stride = s.stride ∧ t.pasize = s.pasize ∧ t.flen = s.flen ∧
    t.phase = s.phase ∧ t.y = s.y ∧ t.x = s.x ∧ t.p = s.p ∧ t.err = s.err ∧ t.outlen = s.outlen

/-- n steps of the machine, stopping at the first fault or refusal. -/
def runSteps : Nat → State → Host.Outcome State Fault Refusal
  | 0, s => .next s
  | n + 1, s =>
    match step s with
    | .next t => runSteps n t
    | .fault r => .fault r
    | .refused r => .refused r

/-- Two accepted operations have the same operands, the same OUT_CAP, and, where they produce a file, the same colour bytes in
every pixel of it: what the result depends on (R194). An operation that fails reads no pixel. -/
def SameInputs (s t : State) : Prop :=
  t.width = s.width ∧ t.height = s.height ∧ t.pixlen = s.pixlen ∧ t.outCap = s.outCap ∧
    ((∃ file, s.encodeMeaning = .done file) →
      ∀ i, i < s.width.toNat * s.height.toNat → (t.pixels i).toNat % 2 ^ 24 = (s.pixels i).toNat % 2 ^ 24)

/-- What HOST can see of a finished operation: PHASE, ERR, OUTLEN and the bytes below OUTLEN (R195). -/
def SameResult (s t : State) : Prop :=
  t.phase = s.phase ∧ t.err = s.err ∧ t.outlen = s.outlen ∧
    ∀ a, a < s.outlen.toNat → Memory.read t.out a = Memory.read s.out a

end Sys2Proof.Machine
end

