-- ==== Sys2Proof/Certificates/Slice0/Obligations.lean ====
section
/-! DEFINITION. The statements for the provers. -/

open Sys2Proof Sys2Proof.Machine

/-! ### Codes and steps -/

/-- R102: the nine rows of the operation map, as codes, and the codes that select nothing (R31, R109). -/
def Obligations.CodesDecodeAsTheMapSays : Prop :=
  decode (.command 1#1) = .ok .encode ∧
  decode (.phase 1#4) = .ok .chkdim ∧
  decode (.phase 2#4) = .ok .geom ∧
  decode (.phase 3#4) = .ok .chklen ∧
  decode (.phase 4#4) = .ok .alloc ∧
  decode (.phase 5#4) = .ok .wfh ∧
  decode (.phase 6#4) = .ok .wdib ∧
  decode (.phase 7#4) = .ok .xpix ∧
  decode (.phase 8#4) = .ok .ret ∧
  decode (.command 0#1) = .error .noCommand ∧
  decode (.phase 0#4) = .error (.noMicroOperation 0#4) ∧
  decode (.phase 9#4) = .error (.noMicroOperation 9#4) ∧
  decode (.phase 10#4) = .error (.noMicroOperation 10#4) ∧
  decode (.phase 11#4) = .error (.noMicroOperation 11#4) ∧
  decode (.phase 12#4) = .error (.unusedPhase 12#4) ∧
  decode (.phase 13#4) = .error (.unusedPhase 13#4) ∧
  decode (.phase 14#4) = .error (.unusedPhase 14#4) ∧
  decode (.phase 15#4) = .error (.unusedPhase 15#4)

/-- Decode and encode agree: every operation is read back from its code, and exactly the well-formed codes are some
operation's code (R100, R101, R102). -/
def Obligations.DecodeAndEncodeAgree : Prop :=
  (∀ i : Instr, decode (encode i) = .ok i) ∧
  ∀ c : Code, c.wellFormed = true ↔ ∃ i, decode c = .ok i ∧ encode i = c

/-- A step runs the micro-operation that PHASE selects (R30, R101), whenever it is ENC's turn: HOST has nothing left to do,
lets the turn pass, or waits. A passed turn is used up, a WAIT goes on. Whose turn it is, is the model's choice (log 5, 6). -/
def Obligations.StepRunsTheSelectedMicroOperation : Prop :=
  ∀ (s : State) (i : Instr), decode (.phase s.phase.code) = .ok i →
    (s.agenda = [] → step s = exec i s) ∧
    (∀ rest, s.agenda = .pass :: rest → step s = exec i { s with agenda := rest }) ∧
    (∀ rest, s.agenda = .wait :: rest → step s = exec i s)

/-- R39: a HOST write of 1 to CTRL.START is the command ENCODE, a write of 0 does nothing, a read returns 0; the bit is also
reached by the register's name, as bit 0 of the value written (the model's reading, log 17). -/
def Obligations.CtrlStartIsTheWholeCommandSet : Prop :=
  ∀ (s : State) (rest : List HostAction),
    (s.agenda = .command 1#1 :: rest → step s = exec .encode { s with agenda := rest }) ∧
    (s.agenda = .command 0#1 :: rest → step s = .next { s with agenda := rest }) ∧
    (s.agenda = .readReg .ctrlStart :: rest →
      step s = .next { s with agenda := rest, replies := s.replies ++ [.reg .ctrlStart 0#32] }) ∧
    (∀ v, s.agenda = .writeReg .ctrlStart v :: rest →
      (v.toNat % 2 = 1 → step s = exec .encode { s with agenda := rest }) ∧
      (v.toNat % 2 = 0 → step s = .next { s with agenda := rest }))

/-- The placing of an instruction (log 18) makes the very next step run it: a command leaves the state as it was, a
micro-operation needs PHASE. -/
def Obligations.PlacedInstructionRunsNext : Prop :=
  ∀ (s : State) (nbits w : Nat) (i : Instr), decodeTableWord nbits w = some i →
    ∃ q : Phase, step (s.withFetchWord nbits w) = exec i { s with phase := q } ∧ (i = .encode → q = s.phase)

/-- R31, R232: in every BUSY phase, and in no other, the code of PHASE is 1 to 8 and selects exactly one micro-operation,
never ENCODE. -/
def Obligations.BusyPhasesSelectOneMicroOperation : Prop :=
  ∀ q : Phase,
    (q.busy = true ↔ 1 ≤ q.code.toNat ∧ q.code.toNat ≤ 8) ∧
    (q.busy = true → ∃ i, decode (.phase q.code) = .ok i ∧ encode i = .phase q.code) ∧
    (q.busy = false → ∀ i, decode (.phase q.code) ≠ .ok i)

/-! ### Reset -/

/-- What R50 gives values for: PHASE = IDLE, ERR = NONE, STATUS = 0, OUTLEN = 0; and OUT_CAP is the default of R10. -/
def Obligations.ResetLeavesIdle : Prop :=
  State.reset.phase = .idle ∧ State.reset.err = .none ∧ State.reset.status = 0#32 ∧ State.reset.outlen = 0#32 ∧
    State.reset.outCap = 4294967295

/-- R240: RST, in any phase, leaves PHASE = IDLE, ERR = NONE, OUTLEN = 0; OUT_CAP and what HOST has in hand stay. -/
def Obligations.RstLeavesIdleFromEveryPhase : Prop :=
  ∀ (s : State) (rest : List HostAction), s.agenda = .rst :: rest →
    ∃ t, step s = .next t ∧ t.phase = .idle ∧ t.err = .none ∧ t.outlen = 0#32 ∧ t.status = 0#32 ∧
      t.outCap = s.outCap ∧ t.agenda = rest ∧ t.replies = s.replies

/-- R31, R197, R231: in IDLE, DONE and ERROR, ENC "merely has no step"; with nothing for HOST to do the state stays (the
model's choice, log 9). -/
def Obligations.EncHasNoStepWhenNotStarted : Prop :=
  ∀ s : State, s.phase = .idle ∨ s.phase = .done ∨ s.phase = .error →
    (s.agenda = [] → step s = .next s) ∧
    (∀ rest, s.agenda = .pass :: rest → step s = .next { s with agenda := rest })

/-- R214: in HALT, ENC has no step (with nothing for HOST to do the machine faults, the model's choice, log 8), and only
reset leaves the phase. -/
def Obligations.HaltIsLeftOnlyByReset : Prop :=
  ∀ s : State, s.phase = .halt →
    (s.agenda = [] → step s = .fault .haltedOutOfMemory) ∧
    (∀ t, step s = .next t → t.phase = .halt ∨ (s.agenda.head? = some .rst ∧ t.phase = .idle))

/-! ### The operations, one by one: their whole effect, and with it their frame -/

/-- R190: a HOST write of 1 to CTRL.START is accepted when PHASE is IDLE, DONE or ERROR; as one step it writes ERR, OUTLEN
and PHASE, and nothing else; from then on, while PHASE is BUSY, the operand registers are write-locked. -/
def Obligations.StartAccepted : Prop :=
  decode (.command 1#1) = .ok .encode ∧
  ∀ s : State, s.phase = .idle ∨ s.phase = .done ∨ s.phase = .error →
    exec .encode s = .next { s with err := .none, outlen := 0#32, phase := .chkdim } ∧
    (∀ rest, s.agenda = .command 1#1 :: rest →
      step s = .next { s with err := .none, outlen := 0#32, phase := .chkdim, agenda := rest }) ∧
    ∀ (q : Phase) (r : RegName) (v : Word) (rest : List HostAction), q.busy = true →
      r = .width ∨ r = .height ∨ r = .pixlen →
      step { s with err := .none, outlen := 0#32, phase := q, agenda := .writeReg r v :: rest } =
        .next { s with err := .none, outlen := 0#32, phase := q, agenda := rest }

/-- R198: START while BUSY or in HALT changes no state, and as a host action it is only used up: nothing is queued. -/
def Obligations.StartIgnoredWhileBusyOrHalted : Prop :=
  ∀ s : State, s.phase.busy = true ∨ s.phase = .halt →
    exec .encode s = .next s ∧
    ∀ rest, s.agenda = .command 1#1 :: rest → step s = .next { s with agenda := rest }

/-- R121: the zero check of CHKDIM raises InvalidDimensions. -/
def Obligations.ChkdimRejectsZero : Prop :=
  decode (.phase 1#4) = .ok .chkdim ∧
  ∀ s : State, s.width = 0#32 ∨ s.height = 0#32 →
    exec .chkdim s = .next { s with err := .invalidDimensions, phase := .error }

/-- R122: past the zero check, a dimension above 2^31 - 1 raises InvalidDimensions and every other pair goes on to GEOM;
WIDTH = 2^31 - 1 is then rejected by GEOM whatever HEIGHT is. -/
def Obligations.ChkdimRangeCheckAndExit : Prop :=
  ∀ s : State, s.width ≠ 0#32 → s.height ≠ 0#32 →
    (2147483647 < s.width.toNat ∨ 2147483647 < s.height.toNat →
      exec .chkdim s = .next { s with err := .invalidDimensions, phase := .error }) ∧
    (s.width.toNat ≤ 2147483647 → s.height.toNat ≤ 2147483647 →
      exec .chkdim s = .next { s with phase := .geom }) ∧
    (s.width.toNat = 2147483647 →
      exec .geom s = .next { s with err := .invalidDimensions, phase := .error })

/-- R123, R124, R125: GEOM's exact numbers, its range check, and that nothing else is written, for every HEIGHT that CHKDIM
lets through. -/
def Obligations.GeomStoresExactGeometryOrRaises : Prop :=
  decode (.phase 2#4) = .ok .geom ∧
  ∀ (s : State) (st a f : Nat), s.height ≠ 0#32 →
    st = ((24 * s.width.toNat + 31) / 32) * 4 → a = st * s.height.toNat → f = 54 + a →
    (4294967295 < f → exec .geom s = .next { s with err := .invalidDimensions, phase := .error }) ∧
    (f ≤ 4294967295 → ∃ vs va vf : Word, vs.toNat = st ∧ va.toNat = a ∧ vf.toNat = f ∧
      exec .geom s = .next { s with stride := vs, pasize := va, flen := vf, phase := .chklen })

/-- R123, R96: the equivalent forms of the stride, and the padding length WIDTH mod 4. -/
def Obligations.StrideForms : Prop :=
  ∀ w : Nat,
    strideOf w = ((3 * w + 3) / 4) * 4 ∧ strideOf w = 3 * w + w % 4 ∧ strideOf w - 3 * w = w % 4 ∧
    strideOf w % 4 = 0 ∧ 3 * w ≤ strideOf w ∧ ∀ n, n % 4 = 0 → 3 * w ≤ n → strideOf w ≤ n

/-- R126: CHKLEN raises BufferTooShort exactly when PIXLEN < WIDTH * HEIGHT (exact product), and goes on to ALLOC otherwise. -/
def Obligations.ChklenChecksTheBufferLength : Prop :=
  decode (.phase 3#4) = .ok .chklen ∧
  ∀ s : State,
    (s.pixlen.toNat < s.width.toNat * s.height.toNat →
      exec .chklen s = .next { s with err := .bufferTooShort, phase := .error }) ∧
    (s.width.toNat * s.height.toNat ≤ s.pixlen.toNat → exec .chklen s = .next { s with phase := .alloc })

/-- R128, R130: ALLOC zeroes OUT[0 .. FLEN - 1] and nothing else, or halts without writing OUT; with the default OUT_CAP it
never halts. -/
def Obligations.AllocZeroFillsOrHalts : Prop :=
  decode (.phase 4#4) = .ok .alloc ∧
  ∀ s : State,
    (s.outCap < s.flen.toNat → exec .alloc s = .next { s with err := .outOfMemory, phase := .halt }) ∧
    (s.flen.toNat ≤ s.outCap → ∃ o, exec .alloc s = .next { s with out := o, phase := .wfh } ∧
      ∀ a, Memory.read o a = if a < s.flen.toNat then some 0#8 else Memory.read s.out a) ∧
    (s.outCap = 4294967295 → s.flen.toNat ≤ s.outCap)

/-- R140 to R145: the fourteen bytes of the file header, and no other byte. -/
def Obligations.WfhWritesTheFileHeader : Prop :=
  decode (.phase 5#4) = .ok .wfh ∧
  ∀ s : State, 14 ≤ s.outCap → ∃ o, exec .wfh s = .next { s with out := o, phase := .wdib } ∧
    ∀ a, Memory.read o a =
      if a < 14 then
        ([0x42#8, 0x4D#8,
          BitVec.ofNat 8 s.flen.toNat, BitVec.ofNat 8 (s.flen.toNat / 2 ^ 8),
          BitVec.ofNat 8 (s.flen.toNat / 2 ^ 16), BitVec.ofNat 8 (s.flen.toNat / 2 ^ 24),
          0x00#8, 0x00#8, 0x00#8, 0x00#8, 0x36#8, 0x00#8, 0x00#8, 0x00#8] : List Byte)[a]?
      else Memory.read s.out a

/-- R147 to R158: the forty bytes of the DIB header, no other byte, and the start of the row loop. -/
def Obligations.WdibWritesTheDibHeader : Prop :=
  ∀ s : State, 54 ≤ s.outCap → s.height ≠ 0#32 →
    ∃ o vy, vy.toNat = s.height.toNat - 1 ∧
    exec .wdib s = .next { s with out := o, y := vy, x := 0#32, p := 0#32, phase := .xpix } ∧
    (∀ a, Memory.read o a =
      if 14 ≤ a ∧ a < 54 then
        ([0x28#8, 0x00#8, 0x00#8, 0x00#8,
          BitVec.ofNat 8 s.width.toNat, BitVec.ofNat 8 (s.width.toNat / 2 ^ 8),
          BitVec.ofNat 8 (s.width.toNat / 2 ^ 16), BitVec.ofNat 8 (s.width.toNat / 2 ^ 24),
          BitVec.ofNat 8 s.height.toNat, BitVec.ofNat 8 (s.height.toNat / 2 ^ 8),
          BitVec.ofNat 8 (s.height.toNat / 2 ^ 16), BitVec.ofNat 8 (s.height.toNat / 2 ^ 24),
          0x01#8, 0x00#8, 0x18#8, 0x00#8,
          0x00#8, 0x00#8, 0x00#8, 0x00#8,
          BitVec.ofNat 8 s.pasize.toNat, BitVec.ofNat 8 (s.pasize.toNat / 2 ^ 8),
          BitVec.ofNat 8 (s.pasize.toNat / 2 ^ 16), BitVec.ofNat 8 (s.pasize.toNat / 2 ^ 24),
          0x13#8, 0x0B#8, 0x00#8, 0x00#8, 0x13#8, 0x0B#8, 0x00#8, 0x00#8,
          0x00#8, 0x00#8, 0x00#8, 0x00#8, 0x00#8, 0x00#8, 0x00#8, 0x00#8] : List Byte)[a - 14]?
      else Memory.read s.out a) ∧
    (s.width.toNat < 2 ^ 31 → ∃ b, Memory.read o 21 = some b ∧ b.toNat < 128)

/-- R171, R172, R173: one XPIX step, its three bytes in the order blue, green, red, its counters, and no other byte, for every
WIDTH that CHKDIM lets through. -/
def Obligations.XpixTransfersOnePixelAndAdvances : Prop :=
  ∀ (s : State) (w : Word) (d : Nat), s.width ≠ 0#32 → s.p.toNat < s.pixlen.toNat → s.pixWord s.p = some w →
    d = 54 + s.y.toNat * s.stride.toNat + 3 * s.x.toNat → d + 3 ≤ s.outCap →
    ∃ o vp, vp.toNat = s.p.toNat + 1 ∧
    (s.x.toNat + 1 < s.width.toNat → ∃ vx, vx.toNat = s.x.toNat + 1 ∧
      exec .xpix s = .next { s with out := o, x := vx, p := vp }) ∧
    (s.width.toNat ≤ s.x.toNat + 1 → s.y ≠ 0#32 → ∃ vy, vy.toNat = s.y.toNat - 1 ∧
      exec .xpix s = .next { s with out := o, y := vy, x := 0#32, p := vp }) ∧
    (s.width.toNat ≤ s.x.toNat + 1 → s.y = 0#32 →
      exec .xpix s = .next { s with out := o, x := 0#32, p := vp, phase := .ret }) ∧
    ∀ a, Memory.read o a =
      if a = d then some (BitVec.ofNat 8 (w.toNat / 2 ^ 16))
      else if a = d + 1 then some (BitVec.ofNat 8 (w.toNat / 2 ^ 8))
      else if a = d + 2 then some (BitVec.ofNat 8 w.toNat)
      else Memory.read s.out a

/-- R193: RET sets OUTLEN to FLEN and PHASE to DONE, and writes nothing else. -/
def Obligations.RetHandsTheBufferOver : Prop :=
  decode (.phase 8#4) = .ok .ret ∧
  ∀ s : State, exec .ret s = .next { s with outlen := s.flen, phase := .done }

/-- Where HEIGHT is 0, a case CHKDIM rules out and no rule gives a value for, GEOM and WDIB still have the rest of their
effect, WDIB's forty bytes among it: Y alone is open, and STRIDE where the stride does not fit its 32 bits (free values, the
model's choice, log 13, 14). -/
def Obligations.HeightZeroLeavesOnlyStrideAndYOpen : Prop :=
  ∀ s : State, s.height = 0#32 →
    (∃ st n, exec .geom s = .next { s with stride := st, pasize := 0#32, flen := 54#32, phase := .chklen, draws := n } ∧
      (((24 * s.width.toNat + 31) / 32) * 4 < 2 ^ 32 →
        st.toNat = ((24 * s.width.toNat + 31) / 32) * 4 ∧ n = s.draws)) ∧
    (54 ≤ s.outCap → ∃ o vy n,
      exec .wdib s = .next { s with out := o, y := vy, x := 0#32, p := 0#32, phase := .xpix, draws := n } ∧
      ∀ a, Memory.read o a =
        if 14 ≤ a ∧ a < 54 then
          ([0x28#8, 0x00#8, 0x00#8, 0x00#8,
            BitVec.ofNat 8 s.width.toNat, BitVec.ofNat 8 (s.width.toNat / 2 ^ 8),
            BitVec.ofNat 8 (s.width.toNat / 2 ^ 16), BitVec.ofNat 8 (s.width.toNat / 2 ^ 24),
            0x00#8, 0x00#8, 0x00#8, 0x00#8,
            0x01#8, 0x00#8, 0x18#8, 0x00#8,
            0x00#8, 0x00#8, 0x00#8, 0x00#8,
            BitVec.ofNat 8 s.pasize.toNat, BitVec.ofNat 8 (s.pasize.toNat / 2 ^ 8),
            BitVec.ofNat 8 (s.pasize.toNat / 2 ^ 16), BitVec.ofNat 8 (s.pasize.toNat / 2 ^ 24),
            0x13#8, 0x0B#8, 0x00#8, 0x00#8, 0x13#8, 0x0B#8, 0x00#8, 0x00#8,
            0x00#8, 0x00#8, 0x00#8, 0x00#8, 0x00#8, 0x00#8, 0x00#8, 0x00#8] : List Byte)[a - 14]?
        else Memory.read s.out a)

/-- Where WIDTH is 0, a case CHKDIM rules out and for which no rule takes WIDTH - 1 (R131), XPIX still transfers its pixel and
raises P; that it then goes on as at the end of a row is the model's choice (log 24). -/
def Obligations.WidthZeroXpixEndsItsRow : Prop :=
  ∀ (s : State) (w : Word) (d : Nat), s.width = 0#32 → s.p.toNat < s.pixlen.toNat → s.pixWord s.p = some w →
    d = 54 + s.y.toNat * s.stride.toNat + 3 * s.x.toNat → d + 3 ≤ s.outCap →
    ∃ o vy q, exec .xpix s = .next { s with out := o, y := vy, x := 0#32, p := s.p + 1, phase := q } ∧
      (s.y ≠ 0#32 → vy.toNat = s.y.toNat - 1 ∧ q = s.phase) ∧ (s.y = 0#32 → vy = 0#32 ∧ q = .ret) ∧
      ∀ a, Memory.read o a =
        if a = d then some (BitVec.ofNat 8 (w.toNat / 2 ^ 16))
        else if a = d + 1 then some (BitVec.ofNat 8 (w.toNat / 2 ^ 8))
        else if a = d + 2 then some (BitVec.ofNat 8 w.toNat)
        else Memory.read s.out a

/-- R62, R249: XPIX is given no meaning at an index not below PIXLEN, nor on a word HOST never wrote. -/
def Obligations.XpixRefusesAbsentPixels : Prop :=
  ∀ s : State,
    (s.pixlen.toNat ≤ s.p.toNat → exec .xpix s = .refused .pixIndexOutOfRange) ∧
    (s.p.toNat < s.pixlen.toNat → s.pixWord s.p = none → exec .xpix s = .refused .pixWordNeverWritten)

/-- R43: OUT has the addresses 0 to OUT_CAP - 1; a micro-operation that would store beyond them faults (the model's choice,
log 12). -/
def Obligations.StoresBeyondOutCapFault : Prop :=
  ∀ s : State,
    (s.outCap < 14 → exec .wfh s = .fault .outAddressAbsent) ∧
    (s.outCap < 54 → exec .wdib s = .fault .outAddressAbsent) ∧
    (s.p.toNat < s.pixlen.toNat → (s.pixWord s.p).isSome = true →
      s.outCap < 54 + s.y.toNat * s.stride.toNat + 3 * s.x.toNat + 3 → exec .xpix s = .fault .outAddressAbsent)

/-! ### Whole-machine rules -/

/-- R196, R40: ENC never writes WIDTH, HEIGHT, PIXLEN or PIX, nor what belongs to HOST. -/
def Obligations.EncNeverWritesTheHostSide : Prop :=
  ∀ (i : Instr) (s t : State), exec i s = .next t → SameHostSide s t

/-- R17, R40: no host action but START (by the command or by CTRL.START's name), RST and the turns it leaves to ENC changes
OUT, the geometry registers, the sequencer registers or the status; each is used up, the collection giving way to its reads. -/
def Obligations.HostNeverWritesTheEncSide : Prop :=
  ∀ (s t : State) (a : HostAction) (rest : List HostAction), s.agenda = a :: rest →
    (∀ b, a ≠ .command b) → (∀ v, a ≠ .writeReg .ctrlStart v) → a ≠ .rst → (s.phase.busy = true → a ≠ .wait ∧ a ≠ .pass) →
    step s = .next t → SameEncSide s t ∧ t.outCap = s.outCap ∧ (a ≠ .collect → t.agenda = rest)

/-- R43, R69: OUT is written by ALLOC, WFH, WDIB and XPIX only; START, CHKDIM, GEOM, CHKLEN and RET leave it. -/
def Obligations.OutIsWrittenByFourOperationsOnly : Prop :=
  ∀ (i : Instr) (s t : State), exec i s = .next t →
    i ≠ .alloc → i ≠ .wfh → i ≠ .wdib → i ≠ .xpix → t.out = s.out

/-- R215: where an operation brings PHASE to ERROR, the whole step is ERR and PHASE, ERR is the code of one of the two typed
errors, and ENC has no further step. -/
def Obligations.RaiseWritesErrAndPhaseOnly : Prop :=
  ∀ (i : Instr) (s t : State), exec i s = .next t → s.phase ≠ .error → t.phase = .error →
    (t.err = .invalidDimensions ∨ t.err = .bufferTooShort) ∧
    t = { s with err := t.err, phase := .error } ∧
    (t.agenda = [] → step t = .next t)

/-- R32: every change of PHASE is an edge of the control-flow graph, or reset. -/
def Obligations.PhaseFollowsTheGraph : Prop :=
  ∀ s t : State, step s = .next t →
    t.phase = s.phase ∨ phaseEdge s.phase t.phase = true ∨ (s.agenda.head? = some .rst ∧ t.phase = .idle)

/-- R179: each XPIX step raises P by exactly 1, so WIDTH * HEIGHT - P is a variant of the loop. -/
def Obligations.XpixRaisesPByOne : Prop :=
  ∀ s t : State, exec .xpix s = .next t → t.p.toNat = s.p.toNat + 1

/-! ### Invariants -/

/-- The invariants hold at reset. -/
def Obligations.InvariantsHoldAtReset : Prop :=
  State.reset.Inv ∧ State.reset.HeaderInv ∧ State.reset.PaddingInv

/-- Every step keeps the control and geometry invariant (R35, R37, R38, R174, and the canonical form of both memories). -/
def Obligations.StepKeepsTheControlInvariant : Prop :=
  ∀ s t : State, s.Inv → step s = .next t → t.Inv

/-- Every step keeps the header invariant of R200. -/
def Obligations.StepKeepsTheHeaderInvariant : Prop :=
  ∀ s t : State, s.Inv → s.HeaderInv → step s = .next t → t.HeaderInv

/-- Every step keeps the padding zero (R129, R175). -/
def Obligations.StepKeepsThePaddingZero : Prop :=
  ∀ s t : State, s.Inv → s.PaddingInv → step s = .next t → t.PaddingInv

/-- The bounds that R74 infers: under the invariant, past GEOM the headers end inside the file and WIDTH * HEIGHT is below
2^31, and in XPIX every OUT address is at most 54 + (HEIGHT - 1) * STRIDE + 3 * WIDTH - 1, which is below FLEN, and P is below
WIDTH * HEIGHT and below PIXLEN. -/
def Obligations.AddressesStayInBounds : Prop :=
  ∀ s : State, s.Inv →
    (s.phase.pastGeom = true → 54 ≤ s.flen.toNat ∧ s.width.toNat * s.height.toNat < 2 ^ 31) ∧
    (s.phase = .xpix →
      54 + s.y.toNat * s.stride.toNat + 3 * s.x.toNat + 2 <
        54 + (s.height.toNat - 1) * s.stride.toNat + 3 * s.width.toNat ∧
      54 + (s.height.toNat - 1) * s.stride.toNat + 3 * s.width.toNat ≤ s.flen.toNat ∧
      s.p.toNat < s.width.toNat * s.height.toNat ∧ s.p.toNat < s.pixlen.toNat)

/-- R199, R232: under the invariant, and with every pixel written by HOST (R243), no BUSY step of ENC faults or is refused. -/
def Obligations.NothingCanStopABusyBlock : Prop :=
  ∀ s : State, s.Inv → s.PixelsWritten → s.phase.busy = true →
    (s.agenda = [] ∨ (∃ rest, s.agenda = .pass :: rest) ∨ (∃ rest, s.agenda = .wait :: rest)) →
    ∃ t, step s = .next t

/-- R175: no XPIX step of an admitted operation writes a padding byte. -/
def Obligations.XpixNeverWritesPadding : Prop :=
  ∀ (s t : State) (y k : Nat), s.Inv → s.phase = .xpix → exec .xpix s = .next t →
    3 * s.width.toNat ≤ k → k < s.stride.toNat →
    Memory.read t.out (54 + y * s.stride.toNat + k) = Memory.read s.out (54 + y * s.stride.toNat + k)

/-- R176: the map (y, x, c) to 54 + y * STRIDE + 3 * x + c is one-to-one. -/
def Obligations.PixelBytesNeverCollide : Prop :=
  ∀ w y x c y' x' c' : Nat, x < w → x' < w → c < 3 → c' < 3 →
    pixelAddress y (strideOf w) x + c = pixelAddress y' (strideOf w) x' + c' → y = y' ∧ x = x' ∧ c = c'

/-! ### The host interface -/

/-- R36: STATUS is PHASE in bits 3:0, ERR in bits 5:4 and zero above; HOST reads it in every phase, and its write of it is
ignored; its reset value is 0. -/
def Obligations.StatusIsAViewOfPhaseAndErr : Prop :=
  State.reset.status = 0#32 ∧
  ∀ s : State,
    s.status.extractLsb' 0 4 = s.phase.code ∧ s.status.extractLsb' 4 2 = s.err.code ∧
    s.status.extractLsb' 6 26 = 0#26 ∧
    (∀ rest, s.agenda = .readReg .status :: rest →
      step s = .next { s with agenda := rest, replies := s.replies ++ [.reg .status s.status] }) ∧
    (∀ rest v, s.agenda = .writeReg .status v :: rest → step s = .next { s with agenda := rest })

/-- R245: a HOST write to an operand register while BUSY or in HALT is ignored; R40: otherwise it writes that register. -/
def Obligations.OperandsAreWriteLocked : Prop :=
  ∀ (s : State) (rest : List HostAction) (v : Word),
    (s.phase.busy = true ∨ s.phase = .halt →
      s.agenda = .writeReg .width v :: rest ∨ s.agenda = .writeReg .height v :: rest ∨
        s.agenda = .writeReg .pixlen v :: rest →
      step s = .next { s with agenda := rest }) ∧
    (s.phase = .idle ∨ s.phase = .done ∨ s.phase = .error →
      (s.agenda = .writeReg .width v :: rest → step s = .next { s with agenda := rest, width := v }) ∧
      (s.agenda = .writeReg .height v :: rest → step s = .next { s with agenda := rest, height := v }) ∧
      (s.agenda = .writeReg .pixlen v :: rest → step s = .next { s with agenda := rest, pixlen := v }))

/-- R246: WRPIX while BUSY is refused; otherwise the word is stored, it reads back, and every other word stays. That a write
in HALT is one of the others is read from R40 (log 15). -/
def Obligations.PixIsWrittenOutsideBusyOnly : Prop :=
  ∀ (s : State) (i w : Word) (rest : List HostAction), s.agenda = .writePix i w :: rest →
    (s.phase.busy = true → step s = .refused .pixWriteWhileBusy) ∧
    (s.phase.busy = false → ∃ m, step s = .next { s with agenda := rest, pix := m } ∧
      ({ s with pix := m } : State).pixWord i = some w ∧
      ∀ j, j ≠ i → ({ s with pix := m } : State).pixWord j = s.pixWord j)

/-- R248: RDOUT answers exactly when PHASE = DONE and the address is below OUTLEN; any other read is refused. It gives the byte
that stands there; under the invariant there is one at every address below OUTLEN. That it answers some byte where ENC never
wrote one is the model's choice (log 26). -/
def Obligations.OutIsReadInDoneOnly : Prop :=
  ∀ (s : State) (a : Word) (rest : List HostAction), s.agenda = .readOut a :: rest →
    (s.phase ≠ .done ∨ s.outlen.toNat ≤ a.toNat → step s = .refused .outReadOutsideModel) ∧
    (s.phase = .done → a.toNat < s.outlen.toNat → ∃ b,
      step s = .next { s with agenda := rest, replies := s.replies ++ [.outByte a b] } ∧
      ∀ b', Memory.read s.out a.toNat = some b' → b = b') ∧
    (s.Inv → s.phase = .done → a.toNat < s.outlen.toNat → ∃ b, Memory.read s.out a.toNat = some b)

/-- R40: HOST reads WIDTH, HEIGHT, PIXLEN and OUTLEN in every phase, and PIX in every phase and at every index: the word it
wrote, or some word where it wrote none. That an index at or above PIXLEN is read like any other is the model's reading
(log 16), and so is that a word never written is read at all (log 10). -/
def Obligations.HostReadsItsRegistersAndPix : Prop :=
  ∀ (s : State) (rest : List HostAction),
    (s.agenda = .readReg .width :: rest →
      step s = .next { s with agenda := rest, replies := s.replies ++ [.reg .width s.width] }) ∧
    (s.agenda = .readReg .height :: rest →
      step s = .next { s with agenda := rest, replies := s.replies ++ [.reg .height s.height] }) ∧
    (s.agenda = .readReg .pixlen :: rest →
      step s = .next { s with agenda := rest, replies := s.replies ++ [.reg .pixlen s.pixlen] }) ∧
    (s.agenda = .readReg .outlen :: rest →
      step s = .next { s with agenda := rest, replies := s.replies ++ [.reg .outlen s.outlen] }) ∧
    (∀ i, s.agenda = .readPix i :: rest → ∃ w,
      step s = .next { s with agenda := rest, replies := s.replies ++ [.pixWord i w] } ∧
      ∀ w', s.pixWord i = some w' → w = w')

/-- Two host reads of one PIX index in a row give the same word and change nothing else, at every index and whether HOST wrote
the word or not. R61 says it of ENC's MemRead; that it holds of a host read of a never-written word (log 10), and that an index
not below PIXLEN is read like any other (log 16), is the model's reading. -/
def Obligations.PixReadsRepeat : Prop :=
  ∀ (s : State) (i : Word) (rest : List HostAction), s.agenda = .readPix i :: .readPix i :: rest →
    ∃ w t, runSteps 2 s = .next t ∧ t.replies = s.replies ++ [.pixWord i w, .pixWord i w] ∧
      t = { s with agenda := rest, replies := t.replies }

/-- R40, R25 to R27, R33 to R35: the geometry registers and Y, X, P are not readable by HOST; R17, R37: a HOST write to them, or
to OUTLEN, changes nothing. That the read is refused and the write ignored is the model's form (log 17). -/
def Obligations.HostCannotReachInternalRegisters : Prop :=
  ∀ (s : State) (rest : List HostAction) (r : RegName) (v : Word),
    r = .stride ∨ r = .pasize ∨ r = .flen ∨ r = .y ∨ r = .x ∨ r = .p ∨ r = .outlen →
    (r ≠ .outlen → s.agenda = .readReg r :: rest → step s = .refused .hostNoAccess) ∧
    (s.agenda = .writeReg r v :: rest → step s = .next { s with agenda := rest })

/-- R111, R252: WAIT goes on while BUSY and ends, with STATUS as its reply, once PHASE is not BUSY. -/
def Obligations.WaitEndsWithStatus : Prop :=
  ∀ (s : State) (rest : List HostAction), s.agenda = .wait :: rest →
    (s.phase.busy = false →
      step s = .next { s with agenda := rest, replies := s.replies ++ [.reg .status s.status] }) ∧
    (s.phase.busy = true → ∀ t, step s = .next t → t.agenda = .wait :: rest)

/-! ### The whole operation -/

/-- R92, R95: the big-step file has 54 + STRIDE * HEIGHT bytes; destination row y holds source row H - 1 - y as blue, green,
red triplets, then zero bytes. -/
def Obligations.BigStepFileHasTheBmpLayout : Prop :=
  ∀ (w h : Nat) (pix : Nat → Word),
    (bmpFile w h pix).length = 54 + strideOf w * h ∧
    (∀ y x, y < h → x < w →
      (bmpFile w h pix)[54 + y * strideOf w + 3 * x]? =
        some (BitVec.ofNat 8 ((pix ((h - 1 - y) * w + x)).toNat / 2 ^ 16)) ∧
      (bmpFile w h pix)[54 + y * strideOf w + 3 * x + 1]? =
        some (BitVec.ofNat 8 ((pix ((h - 1 - y) * w + x)).toNat / 2 ^ 8)) ∧
      (bmpFile w h pix)[54 + y * strideOf w + 3 * x + 2]? =
        some (BitVec.ofNat 8 (pix ((h - 1 - y) * w + x)).toNat)) ∧
    (∀ y k, y < h → 3 * w ≤ k → k < strideOf w → (bmpFile w h pix)[54 + y * strideOf w + k]? = some 0#8)

/-- R177, R194: the file depends on nothing of PIX but the low 24 bits of the words below W * H. -/
def Obligations.AlphaAndSurplusWordsAreIgnored : Prop :=
  ∀ (w h : Nat) (pix pix' : Nat → Word),
    (∀ i, i < w * h → (pix i).toNat % 2 ^ 24 = (pix' i).toNat % 2 ^ 24) → bmpFile w h pix = bmpFile w h pix'

/-- R191, R192: an accepted operation that the big-step function says succeeds reaches, after exactly 7 + WIDTH * HEIGHT ENC
steps, the end state of the big-step function, and no OUT byte at or above FLEN was written. -/
def Obligations.SuccessfulRunRefinesBigStep : Prop :=
  ∀ (s : State) (file : List Byte), s.agenda = [] → s.phase = .idle ∨ s.phase = .done ∨ s.phase = .error →
    s.encodeMeaning = .done file →
    ∃ t0 t, exec .encode s = .next t0 ∧
      runSteps (7 + s.width.toNat * s.height.toNat) t0 = .next t ∧
      EndState s t (.done file) ∧ ∀ a, file.length ≤ a → Memory.read t.out a = Memory.read s.out a

/-- R191, R192, R218: an accepted operation that the big-step function says fails or halts reaches the end state of the
big-step function after 1 step (CHKDIM), 2 (GEOM), 3 (CHKLEN) or 4 (the halt of ALLOC), the first failing check deciding;
OUT is not written. -/
def Obligations.FailingRunRefinesBigStep : Prop :=
  ∀ s : State, s.agenda = [] → s.phase = .idle ∨ s.phase = .done ∨ s.phase = .error →
    (∀ file, s.encodeMeaning ≠ .done file) → s.encodeMeaning ≠ .refused →
    ∃ t0 t, exec .encode s = .next t0 ∧ runSteps s.encodeStepCount t0 = .next t ∧ EndState s t s.encodeMeaning ∧
      s.encodeStepCount ≤ 4

/-- R249: an operation that the big-step function refuses is refused at the first pixel, in the order of P, that HOST never
wrote: XPIX does not read a zero. -/
def Obligations.MissingPixelRefusesTheRun : Prop :=
  ∀ s : State, s.agenda = [] → s.phase = .idle ∨ s.phase = .done ∨ s.phase = .error → s.encodeMeaning = .refused →
    ∃ t0 n, exec .encode s = .next t0 ∧ n < s.width.toNat * s.height.toNat ∧
      s.pixWord (BitVec.ofNat 32 n) = none ∧ (∀ m, m < n → (s.pixWord (BitVec.ofNat 32 m)).isSome = true) ∧
      runSteps (7 + n) t0 = .refused .pixWordNeverWritten

/-- R194: the result of an operation depends on the operands and the colour bytes of the pixels it reads (none, where it
fails), and on nothing else of the two starting states. A refused operation (R249) makes no such run and has no result. -/
def Obligations.ResultDependsOnInputsAlone : Prop :=
  ∀ s1 s2 a1 a2 t1 t2 : State, s1.agenda = [] → s2.agenda = [] →
    s1.phase = .idle ∨ s1.phase = .done ∨ s1.phase = .error →
    s2.phase = .idle ∨ s2.phase = .done ∨ s2.phase = .error →
    SameInputs s1 s2 →
    exec .encode s1 = .next a1 → exec .encode s2 = .next a2 →
    runSteps s1.encodeStepCount a1 = .next t1 → runSteps s2.encodeStepCount a2 = .next t2 →
    SameResult t1 t2

/-- R195: an operation that ends in DONE or ERROR, repeated with unchanged operands and PIX, ends again with the same PHASE,
ERR, OUTLEN and OUT[0 .. OUTLEN - 1]. (In HALT the second START is ignored, R198.) -/
def Obligations.RepeatedOperationGivesTheSameResult : Prop :=
  ∀ s a t : State, s.agenda = [] → s.phase = .idle ∨ s.phase = .done ∨ s.phase = .error → s.encodeMeaning ≠ .halt →
    exec .encode s = .next a → runSteps s.encodeStepCount a = .next t →
    ∃ a' t', exec .encode t = .next a' ∧ runSteps s.encodeStepCount a' = .next t' ∧ SameResult t t'

/-! ### The call `encode(pixels, width, height)` (R112) -/

/-- R112, R77: the statements before START put the arguments in place: every pixel, WIDTH, HEIGHT, and PIXLEN = len(pixels). -/
def Obligations.CallPutsItsArgumentsInPlace : Prop :=
  ∀ (s : State) (pixels : List Word) (w h : Word) (rest : List HostAction),
    s.phase = .idle ∨ s.phase = .done ∨ s.phase = .error → pixels.length < 2 ^ 32 →
    s.agenda = encodeCall pixels w h ++ rest →
    ∃ t, runSteps (pixels.length + 3) s = .next t ∧ t.agenda = .command 1#1 :: .wait :: .collect :: rest ∧
      t.width = w ∧ t.height = h ∧ t.pixlen.toNat = pixels.length ∧
      (∀ i, i < pixels.length → t.pixWord (BitVec.ofNat 32 i) = pixels[i]?) ∧
      SameEncSide s t ∧ t.outCap = s.outCap ∧ t.replies = s.replies

/-- R112: in DONE the collection is `RDOUT 0` to `RDOUT OUTLEN - 1`: under the invariant every read answers, nothing but the
agenda and the replies changes, and with the STATUS that ended WAIT the replies give the byte sequence of the output. That one
action stands for these reads is the model's form (log 25). -/
def Obligations.CollectReadsTheWholeOutput : Prop :=
  ∀ (s : State) (rest : List HostAction), s.Inv → s.phase = .done → s.agenda = .collect :: rest →
    ∃ new file, runSteps (1 + s.outlen.toNat) s = .next { s with agenda := rest, replies := s.replies ++ new } ∧
      callResultOf (.reg .status s.status :: new) = .bytes file ∧ file.length = s.outlen.toNat ∧
      ∀ a, a < s.outlen.toNat → Memory.read s.out a = file[a]?

/-- R112: in ERROR the call gives the typed failure named by STATUS.ERR and no bytes, in HALT no result; nothing is read. -/
def Obligations.CollectReadsNothingWithoutOutput : Prop :=
  ∀ (s : State) (rest : List HostAction), s.agenda = .collect :: rest →
    (s.phase = .error → step s = .next { s with agenda := rest } ∧
      (s.err = .invalidDimensions → callResultOf [.reg .status s.status] = .failure .invalidDimensions) ∧
      (s.err = .bufferTooShort → callResultOf [.reg .status s.status] = .failure .bufferTooShort)) ∧
    (s.phase = .halt → step s = .next { s with agenda := rest } ∧ callResultOf [.reg .status s.status] = .noResult)

/-- R112, R191: START, WAIT and the collection give back what the big-step function says: its file, its typed failure, or no
result in HALT. -/
def Obligations.CallReturnsTheBigStepResult : Prop :=
  ∀ (s : State) (rest : List HostAction), s.phase = .idle ∨ s.phase = .done ∨ s.phase = .error →
    s.agenda = .command 1#1 :: .wait :: .collect :: rest → s.encodeMeaning ≠ .refused →
    ∃ n t new, runSteps n s = .next t ∧ t.agenda = rest ∧ t.replies = s.replies ++ new ∧
      callResultOf new = s.encodeMeaning.callResult
end

