-- ==== Sys2Proof/Laws/Memory.lean ====
section
/-! SUPPORT. The laws of byte memories: a read after a write, the canonical form, and what each compound write leaves at
every address. -/

namespace Sys2Proof.Machine

/-! ### One byte -/

@[simp] theorem Memory.read_nil (a : Nat) : Memory.read [] a = none := rfl

theorem Memory.read_cons (c : Host.Cell) (m : Memory) (a : Nat) :
    Memory.read (c :: m) a = if a = c.1 then some c.2 else Memory.read m a := rfl

/-- A read after a write: the byte written at its address, the old byte at every other. -/
theorem Memory.read_write (m : Memory) (a : Nat) (v : Byte) (b : Nat) :
    Memory.read (Memory.write m a v) b = if b = a then some v else Memory.read m b := by
  induction m with
  | nil => simp [Memory.write, Memory.read_cons]
  | cons c m ih =>
    simp only [Memory.write]
    split
    · simp [Memory.read_cons]
    · split
      · simp only [Memory.read_cons]
        split <;> simp_all
      · simp only [Memory.read_cons, ih]
        split <;> split <;> simp_all

/-- The cells after a write are the old ones and the new one. -/
theorem Memory.mem_write {m : Memory} {a : Nat} {v : Byte} {c : Host.Cell}
    (h : c ∈ Memory.write m a v) : c = (a, v) ∨ c ∈ m := by
  induction m with
  | nil => simpa [Memory.write] using h
  | cons d m ih =>
    simp only [Memory.write] at h
    split at h
    · simpa using h
    · split at h
      · rcases List.mem_cons.1 h with h | h
        · exact .inl h
        · exact .inr (List.mem_cons_of_mem _ h)
      · rcases List.mem_cons.1 h with h | h
        · exact .inr (h ▸ List.mem_cons_self)
        · exact (ih h).imp id (List.mem_cons_of_mem _)

/-- A write keeps the canonical form. -/
theorem Memory.wf_write {m : Memory} (h : Memory.wf m) (a : Nat) (v : Byte) : Memory.wf (Memory.write m a v) := by
  induction m with
  | nil => simp [Memory.write]
  | cons c m ih =>
    obtain ⟨hc, hm⟩ := List.pairwise_cons.1 h
    simp only [Memory.write]
    split
    · rename_i hlt
      refine List.pairwise_cons.2 ⟨fun d hd => ?_, h⟩
      rcases List.mem_cons.1 hd with rfl | hd
      · exact hlt
      · exact hlt.trans (hc d hd)
    · split
      · rename_i heq
        refine List.pairwise_cons.2 ⟨fun d hd => ?_, hm⟩
        simpa [heq] using hc d hd
      · rename_i hlt heq
        refine List.pairwise_cons.2 ⟨fun d hd => ?_, ih hm⟩
        rcases Memory.mem_write hd with rfl | hd
        · simp only; omega
        · exact hc d hd

/-- A listed cell is what its address reads as, in canonical form. -/
theorem Memory.read_of_mem {m : Memory} (h : Memory.wf m) {c : Host.Cell} (hc : c ∈ m) : Memory.read m c.1 = some c.2 := by
  induction m with
  | nil => cases hc
  | cons d m ih =>
    obtain ⟨hd, hm⟩ := List.pairwise_cons.1 h
    rcases List.mem_cons.1 hc with rfl | hc
    · simp [Memory.read_cons]
    · have := hd c hc
      rw [Memory.read_cons, if_neg (by omega), ih hm hc]

/-- What reads as a byte is listed. -/
theorem Memory.mem_of_read {m : Memory} {a : Nat} {v : Byte} (h : Memory.read m a = some v) : (a, v) ∈ m := by
  induction m with
  | nil => cases h
  | cons c m ih =>
    rw [Memory.read_cons] at h
    split at h
    · rename_i heq
      have : c = (a, v) := Prod.ext heq.symm (Option.some.inj h)
      exact this ▸ List.mem_cons_self
    · exact List.mem_cons_of_mem _ (ih h)

/-! ### Little-endian writes and reads -/

/-- Byte k of a number (R12). -/
theorem Memory.ofNat_div_succ (v k : Nat) :
    BitVec.ofNat 8 (v / 256 / 256 ^ k) = BitVec.ofNat 8 (v / 256 ^ (k + 1)) := by
  rw [Nat.div_div_eq_div_mul, Nat.pow_succ, Nat.mul_comm]

/-- MemWrite leaves byte k of v at a + k and every other address as it was (R66). -/
theorem Memory.read_writeLE (m : Memory) (a n v b : Nat) :
    Memory.read (Memory.writeLE m a n v) b =
      if a ≤ b ∧ b < a + n then some (BitVec.ofNat 8 (v / 256 ^ (b - a))) else Memory.read m b := by
  induction n generalizing m a v with
  | zero => rw [if_neg (by omega)]; rfl
  | succ n ih =>
    rw [Memory.writeLE, ih, Memory.read_write]
    by_cases h1 : b = a
    · subst h1
      rw [if_neg (by omega), if_pos rfl, if_pos (by omega)]
      simp
    · by_cases h2 : a ≤ b ∧ b < a + (n + 1)
      · obtain ⟨k, rfl⟩ : ∃ k, b = a + 1 + k := ⟨b - (a + 1), by omega⟩
        rw [if_pos (by omega), if_pos h2, Memory.ofNat_div_succ]
        congr 4
        omega
      · rw [if_neg (by omega), if_neg h1, if_neg h2]

/-- MemWrite keeps the canonical form. -/
theorem Memory.wf_writeLE {m : Memory} (h : Memory.wf m) (a n v : Nat) : Memory.wf (Memory.writeLE m a n v) := by
  induction n generalizing m a v with
  | zero => exact h
  | succ n ih => exact ih (Memory.wf_write h _ _) _ _

/-- MemWrite lists no address outside the ones it writes. -/
theorem Memory.mem_writeLE {m : Memory} {a n v : Nat} {c : Host.Cell} (h : c ∈ Memory.writeLE m a n v) :
    (a ≤ c.1 ∧ c.1 < a + n) ∨ c ∈ m := by
  induction n generalizing m a v with
  | zero => exact .inr h
  | succ n ih =>
    rcases ih h with h | h
    · exact .inl (by omega)
    · rcases Memory.mem_write h with rfl | h
      · exact .inl (by simp)
      · exact .inr h

/-- A number is read back from equal bytes. -/
theorem Memory.readLE_congr {m m' : Memory} {a n : Nat}
    (h : ∀ b, a ≤ b → b < a + n → Memory.read m' b = Memory.read m b) : Memory.readLE m' a n = Memory.readLE m a n := by
  induction n generalizing a with
  | zero => rfl
  | succ n ih =>
    rw [Memory.readLE, Memory.readLE, h a (Nat.le_refl a) (by omega), ih (fun b h1 h2 => h b (by omega) (by omega))]

/-- A number whose bytes stand from a on is read as itself, cut to n bytes. -/
theorem Memory.readLE_of_bytes {m : Memory} {a n v : Nat}
    (h : ∀ k, k < n → Memory.read m (a + k) = some (BitVec.ofNat 8 (v / 256 ^ k))) :
    Memory.readLE m a n = some (v % 256 ^ n) := by
  induction n generalizing a v with
  | zero => simp [Memory.readLE, Nat.mod_one]
  | succ n ih =>
    have h0 := h 0 (by omega)
    have hs : Memory.readLE m (a + 1) n = some (v / 256 % 256 ^ n) := by
      refine ih fun k hk => ?_
      rw [Memory.ofNat_div_succ, ← h (k + 1) (by omega)]
      congr 1
      omega
    simp only [Nat.add_zero, Nat.pow_zero, Nat.div_one] at h0
    rw [Memory.readLE, h0, hs]
    simp only [BitVec.toNat_ofNat, Option.some.injEq]
    rw [Nat.pow_succ' (n := n), Nat.mod_mul]

/-- What MemWrite stored is read back. -/
theorem Memory.readLE_writeLE (m : Memory) (a n v : Nat) :
    Memory.readLE (Memory.writeLE m a n v) a n = some (v % 256 ^ n) := by
  refine Memory.readLE_of_bytes fun k hk => ?_
  rw [Memory.read_writeLE, if_pos (by omega)]
  congr 4
  omega

/-! ### The zero fill -/

/-- Reading over an append. -/
theorem Memory.read_append (m m' : Memory) (a : Nat) :
    Memory.read (m ++ m') a = (Memory.read m a).or (Memory.read m' a) := by
  induction m with
  | nil => simp
  | cons c m ih =>
    rw [List.cons_append, Memory.read_cons, Memory.read_cons, ih]
    split <;> simp

/-- Reading over a filter on addresses. -/
theorem Memory.read_filter (m : Memory) (n a : Nat) :
    Memory.read (m.filter (fun c => n ≤ c.1)) a = if n ≤ a then Memory.read m a else none := by
  induction m with
  | nil => simp
  | cons c m ih =>
    simp only [List.filter_cons]
    split
    · rw [Memory.read_cons, Memory.read_cons, ih]
      split <;> simp_all
    · rw [ih, Memory.read_cons]
      split
      · rw [if_neg]
        rintro rfl
        simp_all
      · rfl

theorem Memory.read_zeros (l : List Nat) (a : Nat) :
    Memory.read (l.map (fun b => (b, 0#8))) a = if a ∈ l then some 0#8 else none := by
  induction l with
  | nil => simp
  | cons b l ih =>
    rw [List.map_cons, Memory.read_cons, ih]
    by_cases h : a = b <;> simp [h]

/-- ALLOC's zero fill: 0 below n, the old byte from n on (R128). -/
theorem Memory.read_zeroFill (m : Memory) (n a : Nat) :
    Memory.read (Memory.zeroFill m n) a = if a < n then some 0#8 else Memory.read m a := by
  rw [Memory.zeroFill, Memory.read_append, Memory.read_zeros, Memory.read_filter]
  by_cases h : a < n
  · simp [h]
  · simp [h, Nat.le_of_not_lt h]

/-- The zero fill keeps the canonical form. -/
theorem Memory.wf_zeroFill {m : Memory} (h : Memory.wf m) (n : Nat) : Memory.wf (Memory.zeroFill m n) := by
  refine List.pairwise_append.2 ⟨?_, h.filter _, ?_⟩
  · exact List.pairwise_map.2 (List.pairwise_lt_range (n := n))
  · intro c hc d hd
    obtain ⟨b, hb, rfl⟩ := List.mem_map.1 hc
    have hn := (List.mem_filter.1 hd).2
    simp only [List.mem_range] at hb
    simp only [decide_eq_true_eq] at hn
    exact Nat.lt_of_lt_of_le hb hn

/-- The zero fill lists no address but those below n and the old ones. -/
theorem Memory.mem_zeroFill {m : Memory} {n : Nat} {c : Host.Cell} (h : c ∈ Memory.zeroFill m n) : c.1 < n ∨ c ∈ m := by
  rcases List.mem_append.1 h with h | h
  · obtain ⟨b, hb, rfl⟩ := List.mem_map.1 h
    exact .inl (List.mem_range.1 hb)
  · exact .inr (List.mem_filter.1 h).1

/-! ### Field lists -/

/-- An address that no field covers keeps its byte. -/
theorem Memory.read_writeFields_of_outside (m : Memory) (fs : List Field) (b : Nat)
    (h : ∀ f, f ∈ fs → b < f.addr ∨ f.addr + f.size ≤ b) :
    Memory.read (Memory.writeFields m fs) b = Memory.read m b := by
  induction fs generalizing m with
  | nil => rfl
  | cons f fs ih =>
    have hf := h f List.mem_cons_self
    rw [Memory.writeFields, ih _ (fun g hg => h g (List.mem_cons_of_mem _ hg)), Memory.read_writeLE, if_neg (by omega)]

/-- An address that has a value keeps one. -/
theorem Memory.isSome_writeFields {m : Memory} (fs : List Field) {b : Nat} (h : (Memory.read m b).isSome) :
    (Memory.read (Memory.writeFields m fs) b).isSome := by
  induction fs generalizing m with
  | nil => exact h
  | cons f fs ih =>
    refine ih ?_
    rw [Memory.read_writeLE]
    split
    · rfl
    · exact h

/-- The writes of a micro-operation keep the canonical form. -/
theorem Memory.wf_writeFields {m : Memory} (h : Memory.wf m) (fs : List Field) : Memory.wf (Memory.writeFields m fs) := by
  induction fs generalizing m with
  | nil => exact h
  | cons f fs ih => exact ih (Memory.wf_writeLE h _ _ _)

/-- The writes of a micro-operation list no address but those of its fields and the old ones. -/
theorem Memory.mem_writeFields {m : Memory} {fs : List Field} {c : Host.Cell} (h : c ∈ Memory.writeFields m fs) :
    (∃ f, f ∈ fs ∧ f.addr ≤ c.1 ∧ c.1 < f.addr + f.size) ∨ c ∈ m := by
  induction fs generalizing m with
  | nil => exact .inr h
  | cons f fs ih =>
    rcases ih h with ⟨g, hg, hc⟩ | h
    · exact .inl ⟨g, List.mem_cons_of_mem _ hg, hc⟩
    · rcases Memory.mem_writeLE h with h | h
      · exact .inl ⟨f, List.mem_cons_self, h⟩
      · exact .inr h

end Sys2Proof.Machine
end

