-- ==== Sys2Proof/Laws/State.lean ====
section
/-! SUPPORT. One lemma per field per named update of State, each true by definition, so that no later proof unfolds a
record update. -/

namespace Sys2Proof.Machine

/-! ### withWidth -/

@[simp] theorem State.width_withWidth (s : State) (v : Word) : (s.withWidth v).width = v := rfl
@[simp] theorem State.height_withWidth (s : State) (v : Word) : (s.withWidth v).height = s.height := rfl
@[simp] theorem State.pixlen_withWidth (s : State) (v : Word) : (s.withWidth v).pixlen = s.pixlen := rfl
@[simp] theorem State.stride_withWidth (s : State) (v : Word) : (s.withWidth v).stride = s.stride := rfl
@[simp] theorem State.pasize_withWidth (s : State) (v : Word) : (s.withWidth v).pasize = s.pasize := rfl
@[simp] theorem State.flen_withWidth (s : State) (v : Word) : (s.withWidth v).flen = s.flen := rfl
@[simp] theorem State.phase_withWidth (s : State) (v : Word) : (s.withWidth v).phase = s.phase := rfl
@[simp] theorem State.y_withWidth (s : State) (v : Word) : (s.withWidth v).y = s.y := rfl
@[simp] theorem State.x_withWidth (s : State) (v : Word) : (s.withWidth v).x = s.x := rfl
@[simp] theorem State.p_withWidth (s : State) (v : Word) : (s.withWidth v).p = s.p := rfl
@[simp] theorem State.err_withWidth (s : State) (v : Word) : (s.withWidth v).err = s.err := rfl
@[simp] theorem State.outlen_withWidth (s : State) (v : Word) : (s.withWidth v).outlen = s.outlen := rfl
@[simp] theorem State.pix_withWidth (s : State) (v : Word) : (s.withWidth v).pix = s.pix := rfl
@[simp] theorem State.out_withWidth (s : State) (v : Word) : (s.withWidth v).out = s.out := rfl
@[simp] theorem State.outCap_withWidth (s : State) (v : Word) : (s.withWidth v).outCap = s.outCap := rfl
@[simp] theorem State.agenda_withWidth (s : State) (v : Word) : (s.withWidth v).agenda = s.agenda := rfl
@[simp] theorem State.replies_withWidth (s : State) (v : Word) : (s.withWidth v).replies = s.replies := rfl
@[simp] theorem State.draws_withWidth (s : State) (v : Word) : (s.withWidth v).draws = s.draws := rfl
@[simp] theorem State.resets_withWidth (s : State) (v : Word) : (s.withWidth v).resets = s.resets := rfl

/-! ### withHeight -/

@[simp] theorem State.width_withHeight (s : State) (v : Word) : (s.withHeight v).width = s.width := rfl
@[simp] theorem State.height_withHeight (s : State) (v : Word) : (s.withHeight v).height = v := rfl
@[simp] theorem State.pixlen_withHeight (s : State) (v : Word) : (s.withHeight v).pixlen = s.pixlen := rfl
@[simp] theorem State.stride_withHeight (s : State) (v : Word) : (s.withHeight v).stride = s.stride := rfl
@[simp] theorem State.pasize_withHeight (s : State) (v : Word) : (s.withHeight v).pasize = s.pasize := rfl
@[simp] theorem State.flen_withHeight (s : State) (v : Word) : (s.withHeight v).flen = s.flen := rfl
@[simp] theorem State.phase_withHeight (s : State) (v : Word) : (s.withHeight v).phase = s.phase := rfl
@[simp] theorem State.y_withHeight (s : State) (v : Word) : (s.withHeight v).y = s.y := rfl
@[simp] theorem State.x_withHeight (s : State) (v : Word) : (s.withHeight v).x = s.x := rfl
@[simp] theorem State.p_withHeight (s : State) (v : Word) : (s.withHeight v).p = s.p := rfl
@[simp] theorem State.err_withHeight (s : State) (v : Word) : (s.withHeight v).err = s.err := rfl
@[simp] theorem State.outlen_withHeight (s : State) (v : Word) : (s.withHeight v).outlen = s.outlen := rfl
@[simp] theorem State.pix_withHeight (s : State) (v : Word) : (s.withHeight v).pix = s.pix := rfl
@[simp] theorem State.out_withHeight (s : State) (v : Word) : (s.withHeight v).out = s.out := rfl
@[simp] theorem State.outCap_withHeight (s : State) (v : Word) : (s.withHeight v).outCap = s.outCap := rfl
@[simp] theorem State.agenda_withHeight (s : State) (v : Word) : (s.withHeight v).agenda = s.agenda := rfl
@[simp] theorem State.replies_withHeight (s : State) (v : Word) : (s.withHeight v).replies = s.replies := rfl
@[simp] theorem State.draws_withHeight (s : State) (v : Word) : (s.withHeight v).draws = s.draws := rfl
@[simp] theorem State.resets_withHeight (s : State) (v : Word) : (s.withHeight v).resets = s.resets := rfl

/-! ### withPixlen -/

@[simp] theorem State.width_withPixlen (s : State) (v : Word) : (s.withPixlen v).width = s.width := rfl
@[simp] theorem State.height_withPixlen (s : State) (v : Word) : (s.withPixlen v).height = s.height := rfl
@[simp] theorem State.pixlen_withPixlen (s : State) (v : Word) : (s.withPixlen v).pixlen = v := rfl
@[simp] theorem State.stride_withPixlen (s : State) (v : Word) : (s.withPixlen v).stride = s.stride := rfl
@[simp] theorem State.pasize_withPixlen (s : State) (v : Word) : (s.withPixlen v).pasize = s.pasize := rfl
@[simp] theorem State.flen_withPixlen (s : State) (v : Word) : (s.withPixlen v).flen = s.flen := rfl
@[simp] theorem State.phase_withPixlen (s : State) (v : Word) : (s.withPixlen v).phase = s.phase := rfl
@[simp] theorem State.y_withPixlen (s : State) (v : Word) : (s.withPixlen v).y = s.y := rfl
@[simp] theorem State.x_withPixlen (s : State) (v : Word) : (s.withPixlen v).x = s.x := rfl
@[simp] theorem State.p_withPixlen (s : State) (v : Word) : (s.withPixlen v).p = s.p := rfl
@[simp] theorem State.err_withPixlen (s : State) (v : Word) : (s.withPixlen v).err = s.err := rfl
@[simp] theorem State.outlen_withPixlen (s : State) (v : Word) : (s.withPixlen v).outlen = s.outlen := rfl
@[simp] theorem State.pix_withPixlen (s : State) (v : Word) : (s.withPixlen v).pix = s.pix := rfl
@[simp] theorem State.out_withPixlen (s : State) (v : Word) : (s.withPixlen v).out = s.out := rfl
@[simp] theorem State.outCap_withPixlen (s : State) (v : Word) : (s.withPixlen v).outCap = s.outCap := rfl
@[simp] theorem State.agenda_withPixlen (s : State) (v : Word) : (s.withPixlen v).agenda = s.agenda := rfl
@[simp] theorem State.replies_withPixlen (s : State) (v : Word) : (s.withPixlen v).replies = s.replies := rfl
@[simp] theorem State.draws_withPixlen (s : State) (v : Word) : (s.withPixlen v).draws = s.draws := rfl
@[simp] theorem State.resets_withPixlen (s : State) (v : Word) : (s.withPixlen v).resets = s.resets := rfl

/-! ### withGeometry -/

@[simp] theorem State.width_withGeometry (s : State) (st pa fl : Word) : (s.withGeometry st pa fl).width = s.width := rfl
@[simp] theorem State.height_withGeometry (s : State) (st pa fl : Word) : (s.withGeometry st pa fl).height = s.height := rfl
@[simp] theorem State.pixlen_withGeometry (s : State) (st pa fl : Word) : (s.withGeometry st pa fl).pixlen = s.pixlen := rfl
@[simp] theorem State.stride_withGeometry (s : State) (st pa fl : Word) : (s.withGeometry st pa fl).stride = st := rfl
@[simp] theorem State.pasize_withGeometry (s : State) (st pa fl : Word) : (s.withGeometry st pa fl).pasize = pa := rfl
@[simp] theorem State.flen_withGeometry (s : State) (st pa fl : Word) : (s.withGeometry st pa fl).flen = fl := rfl
@[simp] theorem State.phase_withGeometry (s : State) (st pa fl : Word) : (s.withGeometry st pa fl).phase = s.phase := rfl
@[simp] theorem State.y_withGeometry (s : State) (st pa fl : Word) : (s.withGeometry st pa fl).y = s.y := rfl
@[simp] theorem State.x_withGeometry (s : State) (st pa fl : Word) : (s.withGeometry st pa fl).x = s.x := rfl
@[simp] theorem State.p_withGeometry (s : State) (st pa fl : Word) : (s.withGeometry st pa fl).p = s.p := rfl
@[simp] theorem State.err_withGeometry (s : State) (st pa fl : Word) : (s.withGeometry st pa fl).err = s.err := rfl
@[simp] theorem State.outlen_withGeometry (s : State) (st pa fl : Word) : (s.withGeometry st pa fl).outlen = s.outlen := rfl
@[simp] theorem State.pix_withGeometry (s : State) (st pa fl : Word) : (s.withGeometry st pa fl).pix = s.pix := rfl
@[simp] theorem State.out_withGeometry (s : State) (st pa fl : Word) : (s.withGeometry st pa fl).out = s.out := rfl
@[simp] theorem State.outCap_withGeometry (s : State) (st pa fl : Word) : (s.withGeometry st pa fl).outCap = s.outCap := rfl
@[simp] theorem State.agenda_withGeometry (s : State) (st pa fl : Word) : (s.withGeometry st pa fl).agenda = s.agenda := rfl
@[simp] theorem State.replies_withGeometry (s : State) (st pa fl : Word) : (s.withGeometry st pa fl).replies = s.replies := rfl
@[simp] theorem State.draws_withGeometry (s : State) (st pa fl : Word) : (s.withGeometry st pa fl).draws = s.draws := rfl
@[simp] theorem State.resets_withGeometry (s : State) (st pa fl : Word) : (s.withGeometry st pa fl).resets = s.resets := rfl

/-! ### withPhase -/

@[simp] theorem State.width_withPhase (s : State) (v : Phase) : (s.withPhase v).width = s.width := rfl
@[simp] theorem State.height_withPhase (s : State) (v : Phase) : (s.withPhase v).height = s.height := rfl
@[simp] theorem State.pixlen_withPhase (s : State) (v : Phase) : (s.withPhase v).pixlen = s.pixlen := rfl
@[simp] theorem State.stride_withPhase (s : State) (v : Phase) : (s.withPhase v).stride = s.stride := rfl
@[simp] theorem State.pasize_withPhase (s : State) (v : Phase) : (s.withPhase v).pasize = s.pasize := rfl
@[simp] theorem State.flen_withPhase (s : State) (v : Phase) : (s.withPhase v).flen = s.flen := rfl
@[simp] theorem State.phase_withPhase (s : State) (v : Phase) : (s.withPhase v).phase = v := rfl
@[simp] theorem State.y_withPhase (s : State) (v : Phase) : (s.withPhase v).y = s.y := rfl
@[simp] theorem State.x_withPhase (s : State) (v : Phase) : (s.withPhase v).x = s.x := rfl
@[simp] theorem State.p_withPhase (s : State) (v : Phase) : (s.withPhase v).p = s.p := rfl
@[simp] theorem State.err_withPhase (s : State) (v : Phase) : (s.withPhase v).err = s.err := rfl
@[simp] theorem State.outlen_withPhase (s : State) (v : Phase) : (s.withPhase v).outlen = s.outlen := rfl
@[simp] theorem State.pix_withPhase (s : State) (v : Phase) : (s.withPhase v).pix = s.pix := rfl
@[simp] theorem State.out_withPhase (s : State) (v : Phase) : (s.withPhase v).out = s.out := rfl
@[simp] theorem State.outCap_withPhase (s : State) (v : Phase) : (s.withPhase v).outCap = s.outCap := rfl
@[simp] theorem State.agenda_withPhase (s : State) (v : Phase) : (s.withPhase v).agenda = s.agenda := rfl
@[simp] theorem State.replies_withPhase (s : State) (v : Phase) : (s.withPhase v).replies = s.replies := rfl
@[simp] theorem State.draws_withPhase (s : State) (v : Phase) : (s.withPhase v).draws = s.draws := rfl
@[simp] theorem State.resets_withPhase (s : State) (v : Phase) : (s.withPhase v).resets = s.resets := rfl

/-! ### withCounters -/

@[simp] theorem State.width_withCounters (s : State) (vy vx vp : Word) : (s.withCounters vy vx vp).width = s.width := rfl
@[simp] theorem State.height_withCounters (s : State) (vy vx vp : Word) : (s.withCounters vy vx vp).height = s.height := rfl
@[simp] theorem State.pixlen_withCounters (s : State) (vy vx vp : Word) : (s.withCounters vy vx vp).pixlen = s.pixlen := rfl
@[simp] theorem State.stride_withCounters (s : State) (vy vx vp : Word) : (s.withCounters vy vx vp).stride = s.stride := rfl
@[simp] theorem State.pasize_withCounters (s : State) (vy vx vp : Word) : (s.withCounters vy vx vp).pasize = s.pasize := rfl
@[simp] theorem State.flen_withCounters (s : State) (vy vx vp : Word) : (s.withCounters vy vx vp).flen = s.flen := rfl
@[simp] theorem State.phase_withCounters (s : State) (vy vx vp : Word) : (s.withCounters vy vx vp).phase = s.phase := rfl
@[simp] theorem State.y_withCounters (s : State) (vy vx vp : Word) : (s.withCounters vy vx vp).y = vy := rfl
@[simp] theorem State.x_withCounters (s : State) (vy vx vp : Word) : (s.withCounters vy vx vp).x = vx := rfl
@[simp] theorem State.p_withCounters (s : State) (vy vx vp : Word) : (s.withCounters vy vx vp).p = vp := rfl
@[simp] theorem State.err_withCounters (s : State) (vy vx vp : Word) : (s.withCounters vy vx vp).err = s.err := rfl
@[simp] theorem State.outlen_withCounters (s : State) (vy vx vp : Word) : (s.withCounters vy vx vp).outlen = s.outlen := rfl
@[simp] theorem State.pix_withCounters (s : State) (vy vx vp : Word) : (s.withCounters vy vx vp).pix = s.pix := rfl
@[simp] theorem State.out_withCounters (s : State) (vy vx vp : Word) : (s.withCounters vy vx vp).out = s.out := rfl
@[simp] theorem State.outCap_withCounters (s : State) (vy vx vp : Word) : (s.withCounters vy vx vp).outCap = s.outCap := rfl
@[simp] theorem State.agenda_withCounters (s : State) (vy vx vp : Word) : (s.withCounters vy vx vp).agenda = s.agenda := rfl
@[simp] theorem State.replies_withCounters (s : State) (vy vx vp : Word) : (s.withCounters vy vx vp).replies = s.replies := rfl
@[simp] theorem State.draws_withCounters (s : State) (vy vx vp : Word) : (s.withCounters vy vx vp).draws = s.draws := rfl
@[simp] theorem State.resets_withCounters (s : State) (vy vx vp : Word) : (s.withCounters vy vx vp).resets = s.resets := rfl

/-! ### withErr -/

@[simp] theorem State.width_withErr (s : State) (v : ErrCode) : (s.withErr v).width = s.width := rfl
@[simp] theorem State.height_withErr (s : State) (v : ErrCode) : (s.withErr v).height = s.height := rfl
@[simp] theorem State.pixlen_withErr (s : State) (v : ErrCode) : (s.withErr v).pixlen = s.pixlen := rfl
@[simp] theorem State.stride_withErr (s : State) (v : ErrCode) : (s.withErr v).stride = s.stride := rfl
@[simp] theorem State.pasize_withErr (s : State) (v : ErrCode) : (s.withErr v).pasize = s.pasize := rfl
@[simp] theorem State.flen_withErr (s : State) (v : ErrCode) : (s.withErr v).flen = s.flen := rfl
@[simp] theorem State.phase_withErr (s : State) (v : ErrCode) : (s.withErr v).phase = s.phase := rfl
@[simp] theorem State.y_withErr (s : State) (v : ErrCode) : (s.withErr v).y = s.y := rfl
@[simp] theorem State.x_withErr (s : State) (v : ErrCode) : (s.withErr v).x = s.x := rfl
@[simp] theorem State.p_withErr (s : State) (v : ErrCode) : (s.withErr v).p = s.p := rfl
@[simp] theorem State.err_withErr (s : State) (v : ErrCode) : (s.withErr v).err = v := rfl
@[simp] theorem State.outlen_withErr (s : State) (v : ErrCode) : (s.withErr v).outlen = s.outlen := rfl
@[simp] theorem State.pix_withErr (s : State) (v : ErrCode) : (s.withErr v).pix = s.pix := rfl
@[simp] theorem State.out_withErr (s : State) (v : ErrCode) : (s.withErr v).out = s.out := rfl
@[simp] theorem State.outCap_withErr (s : State) (v : ErrCode) : (s.withErr v).outCap = s.outCap := rfl
@[simp] theorem State.agenda_withErr (s : State) (v : ErrCode) : (s.withErr v).agenda = s.agenda := rfl
@[simp] theorem State.replies_withErr (s : State) (v : ErrCode) : (s.withErr v).replies = s.replies := rfl
@[simp] theorem State.draws_withErr (s : State) (v : ErrCode) : (s.withErr v).draws = s.draws := rfl
@[simp] theorem State.resets_withErr (s : State) (v : ErrCode) : (s.withErr v).resets = s.resets := rfl

/-! ### withOutlen -/

@[simp] theorem State.width_withOutlen (s : State) (v : Word) : (s.withOutlen v).width = s.width := rfl
@[simp] theorem State.height_withOutlen (s : State) (v : Word) : (s.withOutlen v).height = s.height := rfl
@[simp] theorem State.pixlen_withOutlen (s : State) (v : Word) : (s.withOutlen v).pixlen = s.pixlen := rfl
@[simp] theorem State.stride_withOutlen (s : State) (v : Word) : (s.withOutlen v).stride = s.stride := rfl
@[simp] theorem State.pasize_withOutlen (s : State) (v : Word) : (s.withOutlen v).pasize = s.pasize := rfl
@[simp] theorem State.flen_withOutlen (s : State) (v : Word) : (s.withOutlen v).flen = s.flen := rfl
@[simp] theorem State.phase_withOutlen (s : State) (v : Word) : (s.withOutlen v).phase = s.phase := rfl
@[simp] theorem State.y_withOutlen (s : State) (v : Word) : (s.withOutlen v).y = s.y := rfl
@[simp] theorem State.x_withOutlen (s : State) (v : Word) : (s.withOutlen v).x = s.x := rfl
@[simp] theorem State.p_withOutlen (s : State) (v : Word) : (s.withOutlen v).p = s.p := rfl
@[simp] theorem State.err_withOutlen (s : State) (v : Word) : (s.withOutlen v).err = s.err := rfl
@[simp] theorem State.outlen_withOutlen (s : State) (v : Word) : (s.withOutlen v).outlen = v := rfl
@[simp] theorem State.pix_withOutlen (s : State) (v : Word) : (s.withOutlen v).pix = s.pix := rfl
@[simp] theorem State.out_withOutlen (s : State) (v : Word) : (s.withOutlen v).out = s.out := rfl
@[simp] theorem State.outCap_withOutlen (s : State) (v : Word) : (s.withOutlen v).outCap = s.outCap := rfl
@[simp] theorem State.agenda_withOutlen (s : State) (v : Word) : (s.withOutlen v).agenda = s.agenda := rfl
@[simp] theorem State.replies_withOutlen (s : State) (v : Word) : (s.withOutlen v).replies = s.replies := rfl
@[simp] theorem State.draws_withOutlen (s : State) (v : Word) : (s.withOutlen v).draws = s.draws := rfl
@[simp] theorem State.resets_withOutlen (s : State) (v : Word) : (s.withOutlen v).resets = s.resets := rfl

/-! ### withPix -/

@[simp] theorem State.width_withPix (s : State) (m : Memory) : (s.withPix m).width = s.width := rfl
@[simp] theorem State.height_withPix (s : State) (m : Memory) : (s.withPix m).height = s.height := rfl
@[simp] theorem State.pixlen_withPix (s : State) (m : Memory) : (s.withPix m).pixlen = s.pixlen := rfl
@[simp] theorem State.stride_withPix (s : State) (m : Memory) : (s.withPix m).stride = s.stride := rfl
@[simp] theorem State.pasize_withPix (s : State) (m : Memory) : (s.withPix m).pasize = s.pasize := rfl
@[simp] theorem State.flen_withPix (s : State) (m : Memory) : (s.withPix m).flen = s.flen := rfl
@[simp] theorem State.phase_withPix (s : State) (m : Memory) : (s.withPix m).phase = s.phase := rfl
@[simp] theorem State.y_withPix (s : State) (m : Memory) : (s.withPix m).y = s.y := rfl
@[simp] theorem State.x_withPix (s : State) (m : Memory) : (s.withPix m).x = s.x := rfl
@[simp] theorem State.p_withPix (s : State) (m : Memory) : (s.withPix m).p = s.p := rfl
@[simp] theorem State.err_withPix (s : State) (m : Memory) : (s.withPix m).err = s.err := rfl
@[simp] theorem State.outlen_withPix (s : State) (m : Memory) : (s.withPix m).outlen = s.outlen := rfl
@[simp] theorem State.pix_withPix (s : State) (m : Memory) : (s.withPix m).pix = m := rfl
@[simp] theorem State.out_withPix (s : State) (m : Memory) : (s.withPix m).out = s.out := rfl
@[simp] theorem State.outCap_withPix (s : State) (m : Memory) : (s.withPix m).outCap = s.outCap := rfl
@[simp] theorem State.agenda_withPix (s : State) (m : Memory) : (s.withPix m).agenda = s.agenda := rfl
@[simp] theorem State.replies_withPix (s : State) (m : Memory) : (s.withPix m).replies = s.replies := rfl
@[simp] theorem State.draws_withPix (s : State) (m : Memory) : (s.withPix m).draws = s.draws := rfl
@[simp] theorem State.resets_withPix (s : State) (m : Memory) : (s.withPix m).resets = s.resets := rfl

/-! ### withOut -/

@[simp] theorem State.width_withOut (s : State) (m : Memory) : (s.withOut m).width = s.width := rfl
@[simp] theorem State.height_withOut (s : State) (m : Memory) : (s.withOut m).height = s.height := rfl
@[simp] theorem State.pixlen_withOut (s : State) (m : Memory) : (s.withOut m).pixlen = s.pixlen := rfl
@[simp] theorem State.stride_withOut (s : State) (m : Memory) : (s.withOut m).stride = s.stride := rfl
@[simp] theorem State.pasize_withOut (s : State) (m : Memory) : (s.withOut m).pasize = s.pasize := rfl
@[simp] theorem State.flen_withOut (s : State) (m : Memory) : (s.withOut m).flen = s.flen := rfl
@[simp] theorem State.phase_withOut (s : State) (m : Memory) : (s.withOut m).phase = s.phase := rfl
@[simp] theorem State.y_withOut (s : State) (m : Memory) : (s.withOut m).y = s.y := rfl
@[simp] theorem State.x_withOut (s : State) (m : Memory) : (s.withOut m).x = s.x := rfl
@[simp] theorem State.p_withOut (s : State) (m : Memory) : (s.withOut m).p = s.p := rfl
@[simp] theorem State.err_withOut (s : State) (m : Memory) : (s.withOut m).err = s.err := rfl
@[simp] theorem State.outlen_withOut (s : State) (m : Memory) : (s.withOut m).outlen = s.outlen := rfl
@[simp] theorem State.pix_withOut (s : State) (m : Memory) : (s.withOut m).pix = s.pix := rfl
@[simp] theorem State.out_withOut (s : State) (m : Memory) : (s.withOut m).out = m := rfl
@[simp] theorem State.outCap_withOut (s : State) (m : Memory) : (s.withOut m).outCap = s.outCap := rfl
@[simp] theorem State.agenda_withOut (s : State) (m : Memory) : (s.withOut m).agenda = s.agenda := rfl
@[simp] theorem State.replies_withOut (s : State) (m : Memory) : (s.withOut m).replies = s.replies := rfl
@[simp] theorem State.draws_withOut (s : State) (m : Memory) : (s.withOut m).draws = s.draws := rfl
@[simp] theorem State.resets_withOut (s : State) (m : Memory) : (s.withOut m).resets = s.resets := rfl

/-! ### withAgenda -/

@[simp] theorem State.width_withAgenda (s : State) (l : List HostAction) : (s.withAgenda l).width = s.width := rfl
@[simp] theorem State.height_withAgenda (s : State) (l : List HostAction) : (s.withAgenda l).height = s.height := rfl
@[simp] theorem State.pixlen_withAgenda (s : State) (l : List HostAction) : (s.withAgenda l).pixlen = s.pixlen := rfl
@[simp] theorem State.stride_withAgenda (s : State) (l : List HostAction) : (s.withAgenda l).stride = s.stride := rfl
@[simp] theorem State.pasize_withAgenda (s : State) (l : List HostAction) : (s.withAgenda l).pasize = s.pasize := rfl
@[simp] theorem State.flen_withAgenda (s : State) (l : List HostAction) : (s.withAgenda l).flen = s.flen := rfl
@[simp] theorem State.phase_withAgenda (s : State) (l : List HostAction) : (s.withAgenda l).phase = s.phase := rfl
@[simp] theorem State.y_withAgenda (s : State) (l : List HostAction) : (s.withAgenda l).y = s.y := rfl
@[simp] theorem State.x_withAgenda (s : State) (l : List HostAction) : (s.withAgenda l).x = s.x := rfl
@[simp] theorem State.p_withAgenda (s : State) (l : List HostAction) : (s.withAgenda l).p = s.p := rfl
@[simp] theorem State.err_withAgenda (s : State) (l : List HostAction) : (s.withAgenda l).err = s.err := rfl
@[simp] theorem State.outlen_withAgenda (s : State) (l : List HostAction) : (s.withAgenda l).outlen = s.outlen := rfl
@[simp] theorem State.pix_withAgenda (s : State) (l : List HostAction) : (s.withAgenda l).pix = s.pix := rfl
@[simp] theorem State.out_withAgenda (s : State) (l : List HostAction) : (s.withAgenda l).out = s.out := rfl
@[simp] theorem State.outCap_withAgenda (s : State) (l : List HostAction) : (s.withAgenda l).outCap = s.outCap := rfl
@[simp] theorem State.agenda_withAgenda (s : State) (l : List HostAction) : (s.withAgenda l).agenda = l := rfl
@[simp] theorem State.replies_withAgenda (s : State) (l : List HostAction) : (s.withAgenda l).replies = s.replies := rfl
@[simp] theorem State.draws_withAgenda (s : State) (l : List HostAction) : (s.withAgenda l).draws = s.draws := rfl
@[simp] theorem State.resets_withAgenda (s : State) (l : List HostAction) : (s.withAgenda l).resets = s.resets := rfl

/-! ### withReply -/

@[simp] theorem State.width_withReply (s : State) (r : Reply) : (s.withReply r).width = s.width := rfl
@[simp] theorem State.height_withReply (s : State) (r : Reply) : (s.withReply r).height = s.height := rfl
@[simp] theorem State.pixlen_withReply (s : State) (r : Reply) : (s.withReply r).pixlen = s.pixlen := rfl
@[simp] theorem State.stride_withReply (s : State) (r : Reply) : (s.withReply r).stride = s.stride := rfl
@[simp] theorem State.pasize_withReply (s : State) (r : Reply) : (s.withReply r).pasize = s.pasize := rfl
@[simp] theorem State.flen_withReply (s : State) (r : Reply) : (s.withReply r).flen = s.flen := rfl
@[simp] theorem State.phase_withReply (s : State) (r : Reply) : (s.withReply r).phase = s.phase := rfl
@[simp] theorem State.y_withReply (s : State) (r : Reply) : (s.withReply r).y = s.y := rfl
@[simp] theorem State.x_withReply (s : State) (r : Reply) : (s.withReply r).x = s.x := rfl
@[simp] theorem State.p_withReply (s : State) (r : Reply) : (s.withReply r).p = s.p := rfl
@[simp] theorem State.err_withReply (s : State) (r : Reply) : (s.withReply r).err = s.err := rfl
@[simp] theorem State.outlen_withReply (s : State) (r : Reply) : (s.withReply r).outlen = s.outlen := rfl
@[simp] theorem State.pix_withReply (s : State) (r : Reply) : (s.withReply r).pix = s.pix := rfl
@[simp] theorem State.out_withReply (s : State) (r : Reply) : (s.withReply r).out = s.out := rfl
@[simp] theorem State.outCap_withReply (s : State) (r : Reply) : (s.withReply r).outCap = s.outCap := rfl
@[simp] theorem State.agenda_withReply (s : State) (r : Reply) : (s.withReply r).agenda = s.agenda := rfl
@[simp] theorem State.replies_withReply (s : State) (r : Reply) : (s.withReply r).replies = s.replies ++ [r] := rfl
@[simp] theorem State.draws_withReply (s : State) (r : Reply) : (s.withReply r).draws = s.draws := rfl
@[simp] theorem State.resets_withReply (s : State) (r : Reply) : (s.withReply r).resets = s.resets := rfl

/-! ### withDraws -/

@[simp] theorem State.width_withDraws (s : State) (n : Nat) : (s.withDraws n).width = s.width := rfl
@[simp] theorem State.height_withDraws (s : State) (n : Nat) : (s.withDraws n).height = s.height := rfl
@[simp] theorem State.pixlen_withDraws (s : State) (n : Nat) : (s.withDraws n).pixlen = s.pixlen := rfl
@[simp] theorem State.stride_withDraws (s : State) (n : Nat) : (s.withDraws n).stride = s.stride := rfl
@[simp] theorem State.pasize_withDraws (s : State) (n : Nat) : (s.withDraws n).pasize = s.pasize := rfl
@[simp] theorem State.flen_withDraws (s : State) (n : Nat) : (s.withDraws n).flen = s.flen := rfl
@[simp] theorem State.phase_withDraws (s : State) (n : Nat) : (s.withDraws n).phase = s.phase := rfl
@[simp] theorem State.y_withDraws (s : State) (n : Nat) : (s.withDraws n).y = s.y := rfl
@[simp] theorem State.x_withDraws (s : State) (n : Nat) : (s.withDraws n).x = s.x := rfl
@[simp] theorem State.p_withDraws (s : State) (n : Nat) : (s.withDraws n).p = s.p := rfl
@[simp] theorem State.err_withDraws (s : State) (n : Nat) : (s.withDraws n).err = s.err := rfl
@[simp] theorem State.outlen_withDraws (s : State) (n : Nat) : (s.withDraws n).outlen = s.outlen := rfl
@[simp] theorem State.pix_withDraws (s : State) (n : Nat) : (s.withDraws n).pix = s.pix := rfl
@[simp] theorem State.out_withDraws (s : State) (n : Nat) : (s.withDraws n).out = s.out := rfl
@[simp] theorem State.outCap_withDraws (s : State) (n : Nat) : (s.withDraws n).outCap = s.outCap := rfl
@[simp] theorem State.agenda_withDraws (s : State) (n : Nat) : (s.withDraws n).agenda = s.agenda := rfl
@[simp] theorem State.replies_withDraws (s : State) (n : Nat) : (s.withDraws n).replies = s.replies := rfl
@[simp] theorem State.draws_withDraws (s : State) (n : Nat) : (s.withDraws n).draws = n := rfl
@[simp] theorem State.resets_withDraws (s : State) (n : Nat) : (s.withDraws n).resets = s.resets := rfl

end Sys2Proof.Machine
end

