-- ==== Sys2Proof/Laws/Ops.lean ====
section
/-! SUPPORT. One lemma per shared operation, saying once everything it can do. -/

namespace Sys2Proof.Machine

/-! ### raise, halt, start: what each field is after them -/

theorem State.raise_eq (s : State) (e : TypedError) : s.raise e = { s with err := e.errCode, phase := .error } := rfl

theorem State.haltOutOfMemory_eq (s : State) : s.haltOutOfMemory = { s with err := .outOfMemory, phase := .halt } := rfl

theorem State.start_eq (s : State) : s.start = { s with err := .none, outlen := 0, phase := .chkdim } := rfl

theorem State.draw_eq (s : State) : s.draw = (Config.freeWord s.draws, { s with draws := s.draws + 1 }) := rfl

/-- `REG <- v` where v fits its register. -/
theorem State.natForReg_of_lt {s : State} {v : Nat} (h : v < 2 ^ 32) : s.natForReg v = (BitVec.ofNat 32 v, s) := by
  rw [State.natForReg, if_pos h]

/-- Whatever a register write takes, only the counter of free values moves in the state. -/
theorem State.natForReg_snd (s : State) (v : Nat) : ∃ n, (s.natForReg v).2 = s.withDraws n := by
  rw [State.natForReg]
  split
  · exact ⟨s.draws, rfl⟩
  · exact ⟨s.draws + 1, rfl⟩

/-! ### Stores to OUT -/

/-- The stores of a micro-operation, where they happen, change OUT alone, and only inside OUT_CAP. -/
theorem State.storeOut_some {s t : State} {fs : List Field} (h : s.storeOut fs = some t) :
    (∀ f, f ∈ fs → f.addr + f.size ≤ s.outCap) ∧ t = s.withOut (Memory.writeFields s.out fs) := by
  rw [State.storeOut] at h
  split at h
  · rename_i hall
    exact ⟨fun f hf => by simpa using List.all_eq_true.1 hall f hf, (Option.some.inj h).symm⟩
  · cases h

/-- They happen whenever every field lies inside OUT_CAP. -/
theorem State.storeOut_of_inside {s : State} {fs : List Field} (h : ∀ f, f ∈ fs → f.addr + f.size ≤ s.outCap) :
    s.storeOut fs = some (s.withOut (Memory.writeFields s.out fs)) := by
  rw [State.storeOut, if_pos]
  exact List.all_eq_true.2 fun f hf => by simpa using h f hf

/-- They do not happen where one field lies outside. -/
theorem State.storeOut_of_outside {s : State} {fs : List Field} {f : Field} (hf : f ∈ fs)
    (h : s.outCap < f.addr + f.size) : s.storeOut fs = none := by
  rw [State.storeOut, if_neg]
  intro hall
  have := List.all_eq_true.1 hall f hf
  simp only [decide_eq_true_eq] at this
  omega

/-! ### Reads of PIX -/

/-- MemRead answers exactly the word stored at an index below PIXLEN. -/
theorem State.memReadPix_ok {s : State} {i w : Word} :
    s.memReadPix i = .ok w ↔ i.toNat < s.pixlen.toNat ∧ s.pixWord i = some w := by
  unfold State.memReadPix
  split
  · rename_i hi
    cases h : s.pixWord i <;> simp [hi]
  · rename_i hi
    simp [hi]

/-- MemRead refuses only an index not below PIXLEN and a word never written. -/
theorem State.memReadPix_error {s : State} {i : Word} {r : Refusal} (h : s.memReadPix i = .error r) :
    r = .pixIndexOutOfRange ∨ r = .pixWordNeverWritten := by
  unfold State.memReadPix at h
  split at h
  · split at h
    · cases h
    · exact .inr (Except.error.inj h).symm
  · exact .inl (Except.error.inj h).symm

/-- A word written by WRPIX is read back (R61). -/
theorem State.pixWord_storePixWord (s : State) (i w : Word) : (s.storePixWord i w).pixWord i = some w := by
  rw [State.pixWord, State.storePixWord, State.pix_withPix, Memory.readLE_writeLE, Option.map_some,
    Nat.mod_eq_of_lt (by have := w.isLt; norm_num at this ⊢; omega), BitVec.ofNat_toNat, BitVec.setWidth_eq]

/-- A host read of a written word finds that word. -/
theorem State.pixContents_of_written {s : State} {i w : Word} (h : s.pixWord i = some w) : s.pixContents i = w := by
  rw [State.pixContents, h]

/-- A host read of a written byte of OUT finds that byte. -/
theorem State.outContents_of_written {s : State} {a : Nat} {b : Byte} (h : Memory.read s.out a = some b) :
    s.outContents a = b := by
  rw [State.outContents, h]

/-- WRPIX leaves every other word as it was. -/
theorem State.pixWord_storePixWord_of_ne (s : State) {i j w : Word} (h : j ≠ i) :
    (s.storePixWord i w).pixWord j = s.pixWord j := by
  have hne : j.toNat ≠ i.toNat := fun e => h (BitVec.eq_of_toNat_eq e)
  rw [State.pixWord, State.pixWord, State.storePixWord, State.pix_withPix]
  congr 1
  refine Memory.readLE_congr fun b h1 h2 => ?_
  rw [Memory.read_writeLE, if_neg (by omega)]

/-! ### The advance of XPIX -/

/-- The advance changes the counters and PHASE alone (R172). -/
theorem advance_cases (s : State) :
    (s.x.toNat + 1 < s.width.toNat ∧ advance s = { s with x := s.x + 1, p := s.p + 1 }) ∨
    (s.width.toNat ≤ s.x.toNat + 1 ∧ 0 < s.y.toNat ∧ advance s = { s with y := s.y - 1, x := 0, p := s.p + 1 }) ∨
    (s.width.toNat ≤ s.x.toNat + 1 ∧ s.y.toNat = 0 ∧ advance s = { s with x := 0, p := s.p + 1, phase := .ret }) := by
  unfold advance
  split
  · rename_i h; exact .inl ⟨h, rfl⟩
  · rename_i h
    split
    · rename_i hy; exact .inr (.inl ⟨by omega, hy, rfl⟩)
    · rename_i hy; exact .inr (.inr ⟨by omega, by omega, rfl⟩)

/-! ### Who moves -/

/-- The code of a phase is read back as the phase (R31). -/
theorem Phase.ofCode_code (q : Phase) : Phase.ofCode q.code = some q := by cases q <;> rfl

/-- A phase is BUSY exactly where its code selects a micro-operation (R31). -/
theorem Phase.busy_iff_decodes (q : Phase) : q.busy = true ↔ ∃ i, decode (.phase q.code) = .ok i := by
  cases q <;> simp [Phase.busy, decode, Phase.code, decodePhase]

/-- ENC's turn in a phase that selects a micro-operation is that micro-operation. -/
theorem encTurn_of_decodes {s : State} {i : Instr} (h : decode (.phase s.phase.code) = .ok i) : encTurn s = exec i s := by
  rw [encTurn, h]

/-- ENC's turn in a phase that is not BUSY: the state stays, or HALT faults. -/
theorem encTurn_of_not_busy {s : State} (h : s.phase.busy = false) :
    encTurn s = if s.phase = .halt then .fault .haltedOutOfMemory else .next s := by
  unfold encTurn
  cases hp : s.phase <;> simp_all [Phase.busy, decode, Phase.code, decodePhase]

end Sys2Proof.Machine
end

