-- ==== Sys2Proof/Laws/BigStep.lean ====
section
/-! SUPPORT. What the big-step meaning of ENCODE can be, said once per kind of result. -/

namespace Sys2Proof.Machine

/-- `Encode` itself never refuses: R191 has three kinds of result. -/
theorem encodeResult_ne_refused (outCap w h l : Nat) (pix : Nat → Word) : encodeResult outCap w h l pix ≠ .refused := by
  unfold encodeResult
  split_ifs <;> exact EncodeResult.noConfusion

/-- A file is produced exactly by an admitted operation all of whose pixels were written (R191, R249). -/
theorem State.encodeMeaning_done_iff {s : State} {file : List Byte} :
    s.encodeMeaning = .done file ↔
      encodeResult s.outCap s.width.toNat s.height.toNat s.pixlen.toNat s.pixels = .done file ∧ s.PixelsWritten := by
  unfold State.encodeMeaning
  split
  · rename_i f hf
    split
    · rename_i hp; rw [hf]; exact ⟨fun h => ⟨h, hp⟩, And.left⟩
    · rename_i hp; exact ⟨fun h => (nomatch h), fun h => absurd h.2 hp⟩
  · rename_i hne
    exact ⟨fun h => absurd h (hne _), fun h => absurd h.1 (hne _)⟩

/-- The run is refused exactly where an admitted operation lacks a pixel (R249). -/
theorem State.encodeMeaning_refused_iff {s : State} :
    s.encodeMeaning = .refused ↔
      (∃ file, encodeResult s.outCap s.width.toNat s.height.toNat s.pixlen.toNat s.pixels = .done file) ∧
      ¬ s.PixelsWritten := by
  have hne := encodeResult_ne_refused s.outCap s.width.toNat s.height.toNat s.pixlen.toNat s.pixels
  unfold State.encodeMeaning
  split
  · rename_i f hf
    split
    · rename_i hp; exact ⟨fun h => (nomatch h), fun h => absurd hp h.2⟩
    · rename_i hp; exact ⟨fun _ => ⟨⟨f, hf⟩, hp⟩, fun _ => rfl⟩
  · rename_i hd
    exact ⟨fun h => absurd h hne, fun h => absurd h.1.choose_spec (hd _)⟩

/-- Every other result is that of R191. -/
theorem State.encodeMeaning_of_not_done {s : State}
    (h : ∀ file, encodeResult s.outCap s.width.toNat s.height.toNat s.pixlen.toNat s.pixels ≠ .done file) :
    s.encodeMeaning = encodeResult s.outCap s.width.toNat s.height.toNat s.pixlen.toNat s.pixels := by
  unfold State.encodeMeaning
  split
  · rename_i f hf; exact absurd hf (h f)
  · rfl

end Sys2Proof.Machine
end

