-- ==== Sys2Proof/Laws/Exec.lean ====
section
/-! SUPPORT. One inversion lemma per operation: if it answers a next state, then that state is one of these. -/

namespace Sys2Proof.Machine

theorem execEncode_next {s t : State} (h : execEncode s = .next t) :
    (s.phase.hostIdle = true ∧ t = s.start) ∨ (s.phase.hostIdle = false ∧ t = s) := by
  unfold execEncode at h
  split at h
  · rename_i hp; exact .inl ⟨hp, (Host.Outcome.next.inj h).symm⟩
  · rename_i hp; exact .inr ⟨by simpa using hp, (Host.Outcome.next.inj h).symm⟩

theorem execChkdim_next {s t : State} (h : execChkdim s = .next t) :
    t = s.raise .invalidDimensions ∨
    (1 ≤ s.width.toNat ∧ s.width.toNat ≤ Config.dimMax ∧ 1 ≤ s.height.toNat ∧ s.height.toNat ≤ Config.dimMax ∧
      t = s.withPhase .geom) := by
  unfold execChkdim at h
  split at h
  · exact .inl (Host.Outcome.next.inj h).symm
  · split at h
    · exact .inl (Host.Outcome.next.inj h).symm
    · exact .inr ⟨by omega, by omega, by omega, by omega, (Host.Outcome.next.inj h).symm⟩

theorem execGeom_next {s t : State} (h : execGeom s = .next t) :
    t = s.raise .invalidDimensions ∨
    (fileLengthOf s.width.toNat s.height.toNat ≤ Config.flenMax ∧ ∃ n st,
      (strideOf s.width.toNat < 2 ^ 32 → st = BitVec.ofNat 32 (strideOf s.width.toNat)) ∧
      t = ((s.withDraws n).withGeometry st (BitVec.ofNat 32 (pixelArraySizeOf s.width.toNat s.height.toNat))
        (BitVec.ofNat 32 (fileLengthOf s.width.toNat s.height.toNat))).withPhase .chklen) := by
  unfold execGeom at h
  simp only at h
  split at h
  · exact .inl (Host.Outcome.next.inj h).symm
  · obtain ⟨n, hn⟩ := s.natForReg_snd (strideOf s.width.toNat)
    rw [hn] at h
    refine .inr ⟨by omega, n, _, fun hlt => ?_, (Host.Outcome.next.inj h).symm⟩
    rw [State.natForReg_of_lt hlt]

theorem execChklen_next {s t : State} (h : execChklen s = .next t) :
    t = s.raise .bufferTooShort ∨
    (s.width.toNat * s.height.toNat ≤ s.pixlen.toNat ∧ t = s.withPhase .alloc) := by
  unfold execChklen at h
  split at h
  · exact .inl (Host.Outcome.next.inj h).symm
  · exact .inr ⟨by omega, (Host.Outcome.next.inj h).symm⟩

theorem execAlloc_next {s t : State} (h : execAlloc s = .next t) :
    t = s.haltOutOfMemory ∨
    (s.flen.toNat ≤ s.outCap ∧ t = (s.withOut (Memory.zeroFill s.out s.flen.toNat)).withPhase .wfh) := by
  unfold execAlloc at h
  split at h
  · exact .inl (Host.Outcome.next.inj h).symm
  · exact .inr ⟨by omega, (Host.Outcome.next.inj h).symm⟩

theorem execWfh_next {s t : State} (h : execWfh s = .next t) :
    (∀ f, f ∈ fileHeaderFields s.flen.toNat → f.addr + f.size ≤ s.outCap) ∧
    t = (s.withOut (Memory.writeFields s.out (fileHeaderFields s.flen.toNat))).withPhase .wdib := by
  unfold execWfh at h
  split at h
  · rename_i u hu
    obtain ⟨hin, rfl⟩ := State.storeOut_some hu
    exact ⟨hin, (Host.Outcome.next.inj h).symm⟩
  · cases h

/-- Y's first value is HEIGHT - 1 for every HEIGHT that CHKDIM lets pass, and no other field moves but the counter of free
values (R158). -/
theorem lastRow_spec (s : State) : ∃ n vy, lastRow s = (vy, s.withDraws n) ∧
    (s.height.toNat ≠ 0 → n = s.draws ∧ vy.toNat = s.height.toNat - 1) := by
  unfold lastRow
  split
  · rename_i h0
    exact ⟨_, _, rfl, fun hne => absurd h0 hne⟩
  · refine ⟨s.draws, _, rfl, fun _ => ⟨rfl, ?_⟩⟩
    have := s.height.isLt
    simp only [BitVec.toNat_ofNat]
    omega

theorem execWdib_next {s t : State} (h : execWdib s = .next t) :
    (∀ f, f ∈ dibHeaderFields s.width.toNat s.height.toNat s.pasize.toNat → f.addr + f.size ≤ s.outCap) ∧
    ∃ n vy, (s.height.toNat ≠ 0 → vy.toNat = s.height.toNat - 1) ∧
    t = (((s.withOut (Memory.writeFields s.out
      (dibHeaderFields s.width.toNat s.height.toNat s.pasize.toNat))).withDraws n).withCounters vy 0 0).withPhase .xpix := by
  unfold execWdib at h
  split at h
  · rename_i u hu
    obtain ⟨hin, rfl⟩ := State.storeOut_some hu
    obtain ⟨n, vy, hl, hy⟩ := lastRow_spec (s.withOut (Memory.writeFields s.out
      (dibHeaderFields s.width.toNat s.height.toNat s.pasize.toNat)))
    rw [State.height_withOut] at hy
    rw [hl] at h
    exact ⟨hin, n, vy, fun hne => (hy hne).2, (Host.Outcome.next.inj h).symm⟩
  · cases h

theorem execXpix_next {s t : State} (h : execXpix s = .next t) :
    ∃ w, s.p.toNat < s.pixlen.toNat ∧ s.pixWord s.p = some w ∧
    pixelAddress s.y.toNat s.stride.toNat s.x.toNat + 3 ≤ s.outCap ∧
    t = advance (s.withOut (Memory.writeFields s.out
      (pixelFields (pixelAddress s.y.toNat s.stride.toNat s.x.toNat) w))) := by
  unfold execXpix at h
  split at h
  · cases h
  · rename_i w hw
    obtain ⟨hp, hw⟩ := State.memReadPix_ok.1 hw
    split at h
    · rename_i u hu
      obtain ⟨hin, rfl⟩ := State.storeOut_some hu
      refine ⟨w, hp, hw, ?_, (Host.Outcome.next.inj h).symm⟩
      have := hin ⟨pixelAddress s.y.toNat s.stride.toNat s.x.toNat + 2, 1, (red w).toNat⟩ (by simp [pixelFields])
      simp only at this
      omega
    · cases h

theorem execRet_next {s t : State} (h : execRet s = .next t) : t = (s.withOutlen s.flen).withPhase .done :=
  (Host.Outcome.next.inj h).symm

/-- WFH inside OUT_CAP takes its step. -/
theorem execWfh_of_inside {s : State} (hc : 14 ≤ s.outCap) :
    execWfh s = .next ((s.withOut (Memory.writeFields s.out (fileHeaderFields s.flen.toNat))).withPhase .wdib) := by
  have hs := State.storeOut_of_inside (s := s) (fs := fileHeaderFields s.flen.toNat) (by
    intro f hf
    simp only [fileHeaderFields, List.mem_cons, List.not_mem_nil, or_false] at hf
    rcases hf with rfl | rfl | rfl | rfl | rfl <;> simp only <;> omega)
  rw [execWfh, hs]

/-- WDIB inside OUT_CAP, with a HEIGHT that CHKDIM lets pass, takes its step. The stored memory is kept folded, or Lean
evaluates the eleven writes. -/
theorem execWdib_of_inside {s : State} (hc : 54 ≤ s.outCap) (hh : s.height.toNat ≠ 0) :
    ∃ vy, vy.toNat = s.height.toNat - 1 ∧
    execWdib s = .next (((s.withOut (Memory.writeFields s.out
      (dibHeaderFields s.width.toNat s.height.toNat s.pasize.toNat))).withCounters vy 0 0).withPhase .xpix) := by
  have hs := State.storeOut_of_inside (s := s) (fs := dibHeaderFields s.width.toNat s.height.toNat s.pasize.toNat) (by
    intro f hf
    simp only [dibHeaderFields, List.mem_cons, List.not_mem_nil, or_false] at hf
    rcases hf with rfl | rfl | rfl | rfl | rfl | rfl | rfl | rfl | rfl | rfl | rfl <;> simp only <;> omega)
  generalize Memory.writeFields s.out (dibHeaderFields s.width.toNat s.height.toNat s.pasize.toNat) = m at hs ⊢
  obtain ⟨n, vy, hl, hy⟩ := lastRow_spec (s.withOut m)
  obtain ⟨hn, hy⟩ := hy hh
  refine ⟨vy, hy, ?_⟩
  rw [execWdib, hs]
  simp only [hl, hn]
  rfl

/-- XPIX at a written word, inside OUT_CAP, takes its step. -/
theorem execXpix_of_written {s : State} {w : Word} (hp : s.p.toNat < s.pixlen.toNat) (hw : s.pixWord s.p = some w)
    (hc : pixelAddress s.y.toNat s.stride.toNat s.x.toNat + 3 ≤ s.outCap) :
    execXpix s = .next (advance (s.withOut (Memory.writeFields s.out
      (pixelFields (pixelAddress s.y.toNat s.stride.toNat s.x.toNat) w)))) := by
  have hr : s.memReadPix s.p = .ok w := State.memReadPix_ok.2 ⟨hp, hw⟩
  have hs := State.storeOut_of_inside (s := s)
    (fs := pixelFields (pixelAddress s.y.toNat s.stride.toNat s.x.toNat) w) (by
      intro f hf
      simp only [pixelFields, List.mem_cons, List.not_mem_nil, or_false] at hf
      rcases hf with rfl | rfl | rfl <;> simp only <;> omega)
  rw [execXpix, hr]
  simp only [hs]

/-- The three bytes of a pixel, and no other address (R171). -/
theorem Memory.read_writePixel (m : Memory) (d : Nat) (w : Word) (a : Nat) :
    Memory.read (Memory.writeFields m (pixelFields d w)) a =
      if a = d then some (blue w) else if a = d + 1 then some (green w) else if a = d + 2 then some (red w)
      else Memory.read m a := by
  simp only [pixelFields, Memory.writeFields, Memory.read_writeLE]
  by_cases h0 : a = d
  · subst h0; simp
  · by_cases h1 : a = d + 1
    · subst h1; simp
    · by_cases h2 : a = d + 2
      · subst h2; simp
      · rw [if_neg (by omega), if_neg (by omega), if_neg (by omega), if_neg h0, if_neg h1, if_neg h2]

/-! ### The operations do not look at the agenda -/

theorem State.natForReg_withAgenda (s : State) (l : List HostAction) (n : Nat) :
    (s.withAgenda l).natForReg n = ((s.natForReg n).1, (s.natForReg n).2.withAgenda l) := by
  unfold State.natForReg
  by_cases h : n < 2 ^ 32
  · rw [if_pos h, if_pos h]
  · rw [if_neg h, if_neg h]; rfl

theorem lastRow_withAgenda (s : State) (l : List HostAction) :
    lastRow (s.withAgenda l) = ((lastRow s).1, (lastRow s).2.withAgenda l) := by
  unfold lastRow
  by_cases h : s.height.toNat = 0
  · rw [if_pos (c := (s.withAgenda l).height.toNat = 0) h, if_pos h]; rfl
  · rw [if_neg (c := (s.withAgenda l).height.toNat = 0) h, if_neg h]; rfl

theorem advance_withAgenda (s : State) (l : List HostAction) : advance (s.withAgenda l) = (advance s).withAgenda l := by
  unfold advance
  by_cases h : s.x.toNat + 1 < s.width.toNat
  · rw [if_pos (c := (s.withAgenda l).x.toNat + 1 < (s.withAgenda l).width.toNat) h, if_pos h]; rfl
  · rw [if_neg (c := (s.withAgenda l).x.toNat + 1 < (s.withAgenda l).width.toNat) h, if_neg h]
    by_cases h : 0 < s.y.toNat
    · rw [if_pos (c := 0 < (s.withAgenda l).y.toNat) h, if_pos h]; rfl
    · rw [if_neg (c := 0 < (s.withAgenda l).y.toNat) h, if_neg h]; rfl

/-- A micro-operation or START that answers a next state answers the same one whatever HOST has in mind. -/
theorem exec_withAgenda {i : Instr} {s t : State} (l : List HostAction) (h : exec i s = .next t) :
    exec i (s.withAgenda l) = .next (t.withAgenda l) := by
  cases i <;> simp only [exec] at h ⊢
  · unfold execEncode at h ⊢; split at h <;> rename_i hc <;> cases h
    · rw [if_pos]; rfl; exact hc
    · rw [if_neg]; exact hc
  · unfold execChkdim at h ⊢
    split at h <;> rename_i hc
    · cases h; rw [if_pos]; rfl; exact hc
    · rw [if_neg]
      · split at h <;> rename_i hd
        · cases h; rw [if_pos]; rfl; exact hd
        · cases h; rw [if_neg]; rfl; exact hd
      · exact hc
  · unfold execGeom at h ⊢; simp only at h ⊢
    split at h <;> rename_i hc
    · cases h; rw [if_pos]; rfl; exact hc
    · rw [if_neg]
      · rw [State.natForReg_withAgenda]; cases h; rfl
      · exact hc
  · unfold execChklen at h ⊢
    split at h <;> rename_i hc
    · cases h; rw [if_pos]; rfl; exact hc
    · cases h; rw [if_neg]; rfl; exact hc
  · unfold execAlloc at h ⊢
    split at h <;> rename_i hc
    · cases h; rw [if_pos]; rfl; exact hc
    · cases h; rw [if_neg]; rfl; exact hc
  · obtain ⟨hin, rfl⟩ := execWfh_next h
    have e := State.storeOut_of_inside (s := s.withAgenda l) hin
    rw [execWfh, State.flen_withAgenda, e, State.out_withAgenda]
    generalize Memory.writeFields _ _ = m
    rfl
  · unfold execWdib at h ⊢
    simp only [State.width_withAgenda, State.height_withAgenda, State.pasize_withAgenda]
    split at h
    · rename_i u hu
      obtain ⟨hin, rfl⟩ := State.storeOut_some hu
      have e := State.storeOut_of_inside (s := s.withAgenda l) hin
      rw [e, State.out_withAgenda]
      generalize Memory.writeFields _ _ = m at *
      cases h
      show Host.Outcome.next (((lastRow ((s.withOut m).withAgenda l)).2.withCounters _ 0 0).withPhase _) = _
      rw [show (s.withAgenda l).withOut m = (s.withOut m).withAgenda l from rfl, lastRow_withAgenda]
      rfl
    · cases h
  · obtain ⟨w, h1, h2, h3, rfl⟩ := execXpix_next h
    rw [execXpix_of_written (s := s.withAgenda l) (w := w) h1 h2 h3, State.out_withAgenda]
    simp only [State.y_withAgenda, State.x_withAgenda, State.stride_withAgenda]
    generalize Memory.writeFields _ _ = m
    rw [show (s.withAgenda l).withOut m = (s.withOut m).withAgenda l from rfl, advance_withAgenda]
  · cases h; rfl

end Sys2Proof.Machine
end

