-- ==== Sys2Proof/Laws/PerInstr.lean ====
section
/-! SUPPORT. The per-instruction family: every operation's code passes the checks of WellFormed. -/

namespace Sys2Proof.Laws.CodeWellFormed

/-- The code of the operation is assigned and selects an operation. -/
def Statement (i : Instr) : Prop := (encode i).wellFormed = true

theorem encode : Statement .encode := by rfl
theorem chkdim : Statement .chkdim := by rfl
theorem geom : Statement .geom := by rfl
theorem chklen : Statement .chklen := by rfl
theorem alloc : Statement .alloc := by rfl
theorem wfh : Statement .wfh := by rfl
theorem wdib : Statement .wdib := by rfl
theorem xpix : Statement .xpix := by rfl
theorem ret : Statement .ret := by rfl

end Sys2Proof.Laws.CodeWellFormed
end

