-- ==== Sys2Proof/Laws/Step.lean ====
section
/-! SUPPORT. What one step can do, said once: every invariant is derived from `step_next_cases`. -/

namespace Sys2Proof.Machine

/-! ### Host actions -/

/-- A write to CTRL.START answers an accepted START, or the same state (R39, R190, R198). -/
theorem commandTurn_next {b : BitVec 1} {s t : State} (h : commandTurn b s = .next t) :
    (s.phase.hostIdle = true ∧ t = s.start) ∨ t = s := by
  unfold commandTurn at h
  split at h
  · rename_i i hi
    simp only [decode, decodeCommand] at hi
    split at hi
    · obtain rfl := Except.ok.inj hi
      exact (execEncode_next h).imp id And.right
    · cases hi
  · exact .inr (Host.Outcome.next.inj h).symm

/-- WR to any register but CTRL.START answers the same state, or one operand register written while HOST may write it. -/
theorem hostWriteReg_next_of_ne {r : RegName} {v : Word} {s t : State} (hr : r ≠ .ctrlStart)
    (h : hostWriteReg r v s = .next t) :
    t = s ∨ (s.phase.hostIdle = true ∧ (t = s.withWidth v ∨ t = s.withHeight v ∨ t = s.withPixlen v)) := by
  cases r
  case ctrlStart => exact absurd rfl hr
  all_goals
    simp only [hostWriteReg, State.hostSetOperand, Host.Outcome.next.injEq] at h
    (try split at h) <;> simp_all

/-- WR answers an accepted START (through CTRL.START), the same state, or one operand register written while HOST may write
it. -/
theorem hostWriteReg_next {r : RegName} {v : Word} {s t : State} (h : hostWriteReg r v s = .next t) :
    (s.phase.hostIdle = true ∧ t = s.start) ∨ t = s ∨
    (s.phase.hostIdle = true ∧ (t = s.withWidth v ∨ t = s.withHeight v ∨ t = s.withPixlen v)) := by
  by_cases hr : r = .ctrlStart
  · subst hr; exact (commandTurn_next h).imp id .inl
  · exact .inr (hostWriteReg_next_of_ne hr h)

/-- The collection answers the state with another agenda. -/
theorem hostCollect_next {l : List HostAction} {s t : State} (h : hostCollect l s = .next t) : ∃ l', t = s.withAgenda l' := by
  unfold hostCollect at h
  split at h <;> exact ⟨_, (Host.Outcome.next.inj h).symm⟩

/-- RD answers the state with one reply. -/
theorem hostReadReg_next {r : RegName} {s t : State} (h : hostReadReg r s = .next t) : ∃ q, t = s.withReply q := by
  unfold hostReadReg at h
  split at h
  · exact ⟨_, (Host.Outcome.next.inj h).symm⟩
  · cases h

/-- WRPIX answers the word stored, outside BUSY only. -/
theorem hostWritePix_next {i w : Word} {s t : State} (h : hostWritePix i w s = .next t) :
    s.phase.busy = false ∧ t = s.storePixWord i w := by
  unfold hostWritePix at h
  split at h
  · cases h
  · rename_i hb; exact ⟨by simpa using hb, (Host.Outcome.next.inj h).symm⟩

/-- A host read of PIX answers the state with one reply. -/
theorem hostReadPix_next {i : Word} {s t : State} (h : hostReadPix i s = .next t) : ∃ q, t = s.withReply q :=
  ⟨_, (Host.Outcome.next.inj h).symm⟩

/-- RDOUT answers the state with one reply. -/
theorem hostReadOut_next {a : Word} {s t : State} (h : hostReadOut a s = .next t) : ∃ q, t = s.withReply q := by
  unfold hostReadOut at h
  split at h
  · exact ⟨_, (Host.Outcome.next.inj h).symm⟩
  · cases h

/-! ### The step -/

/-- What HOST's own actions can do to the state they find. -/
inductive HostEffect (u t : State) : Prop
  /-- Nothing. -/
  | same (h : t = u)
  /-- One operand register, while HOST may write it. -/
  | operand (hi : u.phase.hostIdle = true) (v : Word) (h : t = u.withWidth v ∨ t = u.withHeight v ∨ t = u.withPixlen v)
  /-- One word of PIX, outside BUSY. -/
  | pixWord (hb : u.phase.busy = false) (i w : Word) (h : t = u.storePixWord i w)
  /-- One reply. -/
  | reply (q : Reply) (h : t = u.withReply q)

/-- A step that answers a next state is one micro-operation that PHASE selects, or an accepted START, or an effect of HOST's
own, or reset. Each acts on s with at most its agenda changed. -/
theorem step_next_cases {s t : State} (h : step s = .next t) :
    (∃ i l, decode (.phase s.phase.code) = .ok i ∧ exec i (s.withAgenda l) = .next t) ∨
    (∃ l, s.phase.hostIdle = true ∧ t = (s.withAgenda l).start) ∨
    (∃ l, HostEffect (s.withAgenda l) t) ∨
    (∃ l, s.agenda.head? = some .rst ∧ t = (s.withAgenda l).applyRst) := by
  have enc : ∀ l, encTurn (s.withAgenda l) = .next t →
      (∃ i l, decode (.phase s.phase.code) = .ok i ∧ exec i (s.withAgenda l) = .next t) ∨
      (∃ l, HostEffect (s.withAgenda l) t) := by
    intro l he
    unfold encTurn at he
    split at he
    · rename_i i hi; exact .inl ⟨i, l, hi, he⟩
    · split at he
      · cases he
      · exact .inr ⟨l, .same (Host.Outcome.next.inj he).symm⟩
  have enc' : ∀ l, encTurn (s.withAgenda l) = .next t →
      (∃ i l, decode (.phase s.phase.code) = .ok i ∧ exec i (s.withAgenda l) = .next t) ∨
      (∃ l, s.phase.hostIdle = true ∧ t = (s.withAgenda l).start) ∨
      (∃ l, HostEffect (s.withAgenda l) t) ∨
      (∃ l, s.agenda.head? = some .rst ∧ t = (s.withAgenda l).applyRst) := fun l he =>
    (enc l he).imp id fun h => .inr (.inl h)
  have host : ∀ l, HostEffect (s.withAgenda l) t → (∃ i l, decode (.phase s.phase.code) = .ok i ∧
      exec i (s.withAgenda l) = .next t) ∨
      (∃ l, s.phase.hostIdle = true ∧ t = (s.withAgenda l).start) ∨
      (∃ l, HostEffect (s.withAgenda l) t) ∨
      (∃ l, s.agenda.head? = some .rst ∧ t = (s.withAgenda l).applyRst) := fun l he => .inr (.inr (.inl ⟨l, he⟩))
  unfold step turn at h
  split at h
  · exact enc' s.agenda h
  · rename_i r v rest _
    rcases hostWriteReg_next h with ⟨hp, h⟩ | h | ⟨hi, h⟩
    · exact .inr (.inl ⟨rest, hp, h⟩)
    · exact host rest (.same h)
    · exact host rest (.operand hi v h)
  · rename_i i w rest _
    obtain ⟨hb, h⟩ := hostWritePix_next h
    exact host rest (.pixWord hb i w h)
  · rename_i b rest _
    rcases commandTurn_next h with ⟨hp, h⟩ | h
    · exact .inr (.inl ⟨rest, hp, h⟩)
    · exact host rest (.same h)
  · rename_i rest _
    unfold waitTurn at h
    split at h
    · exact enc' s.agenda h
    · exact host rest (.reply _ (Host.Outcome.next.inj h).symm)
  · obtain ⟨q, h⟩ := hostReadReg_next h
    exact host _ (.reply q h)
  · obtain ⟨q, h⟩ := hostReadPix_next h
    exact host _ (.reply q h)
  · obtain ⟨q, h⟩ := hostReadOut_next h
    exact host _ (.reply q h)
  · obtain ⟨l, h⟩ := hostCollect_next h
    exact host l (.same h)
  · unfold passTurn at h
    split at h
    · exact enc' _ h
    · exact host _ (.same (Host.Outcome.next.inj h).symm)
  · rename_i rest ha
    exact .inr (.inr (.inr ⟨rest, by rw [ha]; rfl, (Host.Outcome.next.inj h).symm⟩))

/-- What PHASE selects, phase by phase (R31). -/
theorem phase_of_decodes {q : Phase} {i : Instr} (h : decode (.phase q.code) = .ok i) :
    (q = .chkdim ∧ i = .chkdim) ∨ (q = .geom ∧ i = .geom) ∨ (q = .chklen ∧ i = .chklen) ∨ (q = .alloc ∧ i = .alloc) ∨
    (q = .wfh ∧ i = .wfh) ∨ (q = .wdib ∧ i = .wdib) ∨ (q = .xpix ∧ i = .xpix) ∨ (q = .ret ∧ i = .ret) := by
  cases q <;> simp [decode, Phase.code, decodePhase] at h <;> subst h <;> simp

/-- With nothing for HOST to do, a BUSY block takes its micro-operation. -/
theorem step_of_decodes {s : State} {i : Instr} (ha : s.agenda = []) (h : decode (.phase s.phase.code) = .ok i) :
    step s = exec i s := by
  rw [step, turn, ha]
  exact encTurn_of_decodes h

/-! ### Runs -/

@[simp] theorem runSteps_zero (s : State) : runSteps 0 s = .next s := rfl

/-- A run takes its first step first. -/
theorem runSteps_succ {n : Nat} {s t : State} (h : step s = .next t) : runSteps (n + 1) s = runSteps n t := by
  rw [runSteps, h]

/-- A run of m + n steps is a run of m and then of n. -/
theorem runSteps_add {m n : Nat} {s t : State} (h : runSteps m s = .next t) : runSteps (m + n) s = runSteps n t := by
  induction m generalizing s with
  | zero =>
    rw [runSteps_zero] at h
    rw [Nat.zero_add, Host.Outcome.next.inj h]
  | succ m ih =>
    rw [runSteps] at h
    cases hs : step s with
    | next u =>
      rw [hs] at h
      rw [Nat.succ_add, runSteps_succ hs, ih h]
    | fault r => rw [hs] at h; cases h
    | refused r => rw [hs] at h; cases h

end Sys2Proof.Machine
end

