-- ==== Sys2Proof/Tests/Slice0.lean ====
section
/-! SUPPORT. The model's own tests: codes, one-step checks against spec/95_test_vectors.md, and for every statement with
hypotheses a state that meets them (`witness_…`). -/

namespace Sys2Proof.Tests

open Sys2Proof Sys2Proof.Machine

/-! ### Helpers -/

/-- The next state, if there is one. -/
def nextOf : Host.Outcome State Fault Refusal → Option State
  | .next t => some t
  | .fault _ => none
  | .refused _ => none

/-- A state with operands, in a phase. -/
def inPhase (q : Phase) (w h l : Word) : State :=
  (((State.reset.withWidth w).withHeight h).withPixlen l).withPhase q

/-- PIX filled from index 0 on. -/
def withPixels (s : State) : Nat → List Word → State
  | _, [] => s
  | i, w :: ws => withPixels (s.storePixWord (BitVec.ofNat 32 i) w) (i + 1) ws

/-- The pixels of V24. -/
def pixelsV24 : List Word := [0xAA131211, 0xBB232221, 0xCC333231, 0xDD434241, 0xEE535251, 0xFF636261]

/-- The 3 by 2 image of V24 in XPIX, at (y, x, p), with a zero-filled OUT and both headers written. -/
def atXpix (y x p : Word) : State :=
  let s := ((withPixels (inPhase .xpix 3 2 6) 0 pixelsV24).withGeometry 12 24 78).withCounters y x p
  s.withOut (Memory.writeFields (Memory.writeFields (Memory.zeroFill [] 78) (fileHeaderFields 78)) (dibHeaderFields 3 2 24))

/-- The 1 by 1 image of V20, before START. -/
def readyV20 : State := withPixels (inPhase .idle 1 1 1) 0 [0x00FF8040]

/-! ### Codes (30_encoding.md, R100 to R103) -/

theorem test_decode_encode : decode (.command 0b1#1) = .ok .encode := by decide
theorem test_decode_chkdim : decode (.phase 0b0001#4) = .ok .chkdim := by decide
theorem test_decode_geom : decode (.phase 0b0010#4) = .ok .geom := by decide
theorem test_decode_chklen : decode (.phase 0b0011#4) = .ok .chklen := by decide
theorem test_decode_alloc : decode (.phase 0b0100#4) = .ok .alloc := by decide
theorem test_decode_wfh : decode (.phase 0b0101#4) = .ok .wfh := by decide
theorem test_decode_wdib : decode (.phase 0b0110#4) = .ok .wdib := by decide
theorem test_decode_xpix : decode (.phase 0b0111#4) = .ok .xpix := by decide
theorem test_decode_ret : decode (.phase 0b1000#4) = .ok .ret := by decide

/-- R109: CTRL.START = 0 is no command. -/
theorem test_reject_no_command : decode (.command 0b0#1) = .error .noCommand := by decide

/-- R31: DONE has no micro-operation, and code 12 is unused. -/
theorem test_reject_phases : decode (.phase 0b1001#4) = .error (.noMicroOperation 9#4) ∧
    decode (.phase 0b1100#4) = .error (.unusedPhase 12#4) := by decide

/-- The numbers of spec/opcode_table.json, in whole bytes (log 18: the number 1 is read as ENCODE). -/
theorem test_table_words : decodeTableWord 8 1 = some .encode ∧ decodeTableWord 4 1 = some .chkdim ∧
    decodeTableWord 1 1 = some .encode ∧ decodeTableWord 8 7 = some .xpix ∧ decodeTableWord 8 8 = some .ret ∧
    decodeTableWord 8 0 = none ∧ decodeTableWord 8 9 = none ∧ decodeTableWord 8 16 = none := by decide

/-! ### Well-formedness: what each check refuses -/

theorem test_wf_command_zero : (Code.command 0#1).selectsOperation = false := by decide
theorem test_wf_idle : (Code.phase 0#4).selectsOperation = false := by decide
theorem test_wf_unused_twelve : (Code.phase 12#4).isAssigned = false ∧ (Code.phase 15#4).isAssigned = false := by decide
theorem test_wf_whole : (Code.phase 11#4).wellFormed = false ∧ (Code.phase 12#4).wellFormed = false ∧
    (Code.phase 8#4).wellFormed = true := by decide
theorem test_wf_host : hostActionWellFormed (.writeReg .outlen 0) = false ∧
    hostActionWellFormed (.readReg .stride) = false ∧ hostActionWellFormed (.writeReg .width 0) = true := by decide

/-! ### One step of each operation -/

/-- P1, step START. -/
theorem test_encode_p1 : (nextOf (exec .encode readyV20)).map (fun t => (t.phase, t.err, t.outlen)) =
    some (.chkdim, .none, 0) := by decide

/-- R198: START in HALT is ignored. -/
theorem test_encode_halt : exec .encode (inPhase .halt 1 1 1) = .next (inPhase .halt 1 1 1) := by rfl

/-- V5: WIDTH 0, HEIGHT 7 gives STATUS 0x1A. -/
theorem test_chkdim_v5 : (nextOf (exec .chkdim (inPhase .chkdim 0 7 0))).map State.status = some 0x1A := by decide

/-- V10: 0x80000000 is raised by CHKDIM; the last row of V2 but one: 2147483647 passes. -/
theorem test_chkdim_v10 :
    (nextOf (exec .chkdim (inPhase .chkdim 0x80000000 1 0))).map State.status = some 0x1A ∧
    (nextOf (exec .chkdim (inPhase .chkdim 2147483647 1 0))).map State.phase = some .geom := by decide

/-- V2, first rows: 1431655746 passes with FLEN 4294967294, 1431655747 raises. -/
theorem test_geom_v2_limit :
    (nextOf (exec .geom (inPhase .geom 1431655746 1 0))).map (fun t => (t.stride, t.flen, t.phase)) =
      some (4294967240, 4294967294, .chklen) ∧
    (nextOf (exec .geom (inPhase .geom 1431655747 1 0))).map State.status = some 0x1A := by decide

/-- V2, last row: no 32-bit wrap in 24 * WIDTH. -/
theorem test_geom_v2_wrap :
    (nextOf (exec .geom (inPhase .geom 178956971 1 0))).map (fun t => (t.stride, t.flen)) =
      some (536870916, 536870970) := by decide

/-- V8: 2 by 2 with 3 words gives STATUS 0x2A. -/
theorem test_chklen_v8 : (nextOf (exec .chklen (inPhase .chklen 2 2 3))).map State.status = some 0x2A := by decide

/-- R126: the product does not wrap: 65536 * 65536 words are not 0 words. -/
theorem test_chklen_wrap :
    (nextOf (exec .chklen (inPhase .chklen 65536 65536 0))).map State.status = some 0x2A := by decide

/-- V11: FLEN 70 with OUT_CAP 64 halts with STATUS 0x3B. -/
theorem test_alloc_v11 :
    (nextOf (exec .alloc { (inPhase .alloc 2 2 4) with flen := 70, outCap := 64 })).map State.status = some 0x3B := by decide

/-- P4: ALLOC zeroes an old byte below FLEN and keeps one at FLEN. -/
theorem test_alloc_p4 :
    (nextOf (exec .alloc { (inPhase .alloc 1 1 1) with flen := 58, out := [(57, 6), (58, 9)] })).map
      (fun t => (Memory.read t.out 0, Memory.read t.out 57, Memory.read t.out 58, t.phase)) =
      some (some 0, some 0, some 9, .wfh) := by decide

/-- V2: FLEN 4294967294 is stored as FE FF FF FF; R144: 36 00 00 00 at 10. -/
theorem test_wfh_v2 :
    (nextOf (exec .wfh { (inPhase .wfh 1 1 1) with flen := 4294967294 })).map (fun t => t.out.map Prod.snd) =
      some [0x42, 0x4D, 0xFE, 0xFF, 0xFF, 0xFF, 0, 0, 0, 0, 0x36, 0, 0, 0] := by decide

/-- V24, bytes 14 to 53. -/
theorem test_wdib_v24 :
    (nextOf (exec .wdib { (inPhase .wdib 3 2 6) with pasize := 24 })).map (fun t => t.out.map Prod.snd) =
      some [0x28, 0, 0, 0, 3, 0, 0, 0, 2, 0, 0, 0, 1, 0, 0x18, 0, 0, 0, 0, 0, 0x18, 0, 0, 0,
        0x13, 0x0B, 0, 0, 0x13, 0x0B, 0, 0, 0, 0, 0, 0, 0, 0, 0, 0] := by decide

/-- R158 and R181: the counters of the 1 by 2 image. -/
theorem test_wdib_counters :
    (nextOf (exec .wdib { (inPhase .wdib 1 2 2) with x := 9, p := 9 })).map (fun t => (t.y, t.x, t.p, t.phase)) =
      some (1, 0, 0, .xpix) := by decide

/-- V13: row 3 2 12 at (1, 2, 2) ends the row. -/
theorem test_xpix_v13_row_end :
    (nextOf (exec .xpix (atXpix 1 2 2))).map (fun t =>
      ([72, 73, 74].map (Memory.read t.out), t.y, t.x, t.p, t.phase)) =
      some ([some 0x33, some 0x32, some 0x31], 0, 0, 3, .xpix) := by decide

/-- V13: row 3 2 12 at (0, 2, 5) ends the image. -/
theorem test_xpix_v13_last :
    (nextOf (exec .xpix (atXpix 0 2 5))).map (fun t =>
      ([60, 61, 62].map (Memory.read t.out), t.y, t.x, t.p, t.phase)) =
      some ([some 0x63, some 0x62, some 0x61], 0, 0, 6, .ret) := by decide

/-- R193: FLEN 58 gives OUTLEN 58 and STATUS 0x00000009. -/
theorem test_ret_r193 :
    (nextOf (exec .ret { (inPhase .ret 1 1 1) with flen := 58 })).map (fun t => (t.outlen, t.status)) = some (58, 9) := by
  decide

/-! ### Host actions and placing -/

/-- R245: a write to WIDTH in XPIX is ignored. -/
theorem test_host_lock :
    (nextOf (step { (atXpix 1 0 0) with agenda := [.writeReg .width 9] })).map State.width = some 3 := by decide

/-- R246, R248: the two refusals of R232. -/
theorem test_host_refusals :
    step { (inPhase .geom 1 1 1) with agenda := [.writePix 0 0] } = .refused .pixWriteWhileBusy ∧
    step { (inPhase .error 1 1 1) with agenda := [.readOut 0] } = .refused .outReadOutsideModel := ⟨rfl, rfl⟩

/-- R39: WR by the name of CTRL.START is START for bit 0 = 1, and nothing for bit 0 = 0. -/
theorem test_host_ctrl_start :
    (nextOf (step (readyV20.withAgenda [.writeReg .ctrlStart 1]))).map State.phase = some .chkdim ∧
    (nextOf (step (readyV20.withAgenda [.writeReg .ctrlStart 0]))).map State.phase = some .idle := by decide

/-- R40, R246: HOST may read PIX while BUSY, also where it wrote nothing. -/
theorem test_host_read_pix : (nextOf (step ((inPhase .xpix 1 1 1).withAgenda [.readPix 5]))).isSome := by decide

/-- A byte below OUTLEN that ENC never wrote (RET placed without ALLOC) is read like any other (log 26). -/
theorem test_host_read_unwritten_out :
    (nextOf (step { (inPhase .done 1 1 1) with outlen := 58, agenda := [.readOut 57] })).isSome := by decide

/-- R112: a call whose operands are wrong gives the typed failure (V5), one that halts no result (V11). -/
theorem test_call_failures :
    callResultOf [.reg .status 0x1A] = .failure .invalidDimensions ∧
    callResultOf [.reg .status 0x2A] = .failure .bufferTooShort ∧ callResultOf [.reg .status 0x3B] = .noResult ∧
    callResultOf [.reg .status 0x09, .outByte 0 0x42, .outByte 1 0x4D] = .bytes [0x42, 0x4D] := by decide

/-- R112, P5: the statements of the call. -/
theorem test_encode_call : encodeCall [0x000000FF, 0x00FF0000, 0xDEADBEEF] 1 2 =
    [.writePix 0 0x000000FF, .writePix 1 0x00FF0000, .writePix 2 0xDEADBEEF,
     .writeReg .width 1, .writeReg .height 2, .writeReg .pixlen 3, .command 1, .wait, .collect] := by decide

/-- A placed instruction runs as the first step after reset. -/
theorem test_placed_ret : (nextOf (step (State.reset.withFetchWord 8 8))).map State.phase = some .done := by decide
theorem test_placed_encode : (nextOf (step (State.reset.withFetchWord 8 1))).map State.phase = some .chkdim := by decide

/-- V20 and V24 (bytes 54 on) of the big-step function. -/
theorem test_big_step_v20 : (bmpFile 1 1 (fun _ => 0x00FF8040)).drop 54 = [0xFF, 0x80, 0x40, 0] := by decide
theorem test_big_step_v24 : (bmpFile 3 2 (fun i => pixelsV24[i]?.getD 0)).drop 54 =
    [0x43, 0x42, 0x41, 0x53, 0x52, 0x51, 0x63, 0x62, 0x61, 0, 0, 0,
     0x13, 0x12, 0x11, 0x23, 0x22, 0x21, 0x33, 0x32, 0x31, 0, 0, 0] := by decide
theorem test_big_step_header_v20 : (bmpFile 1 1 (fun _ => 0)).take 54 =
    [0x42, 0x4D, 0x3A, 0, 0, 0, 0, 0, 0, 0, 0x36, 0, 0, 0, 0x28, 0,
     0, 0, 1, 0, 0, 0, 1, 0, 0, 0, 1, 0, 0x18, 0, 0, 0,
     0, 0, 4, 0, 0, 0, 0x13, 0x0B, 0, 0, 0x13, 0x0B, 0, 0, 0, 0,
     0, 0, 0, 0, 0, 0] := by decide

/-! ### Witnesses: for each statement with hypotheses, values that meet all of them, one for each clause -/

theorem witness_StepRunsTheSelectedMicroOperation :
    decode (.phase (inPhase .ret 1 1 1).phase.code) = .ok .ret ∧ (inPhase .ret 1 1 1).agenda = [] ∧
    decode (.phase ((inPhase .chkdim 1 1 1).withAgenda [.pass, .rst]).phase.code) = .ok .chkdim ∧
    ((inPhase .chkdim 1 1 1).withAgenda [.pass, .rst]).agenda = .pass :: [.rst] ∧
    decode (.phase ((atXpix 0 2 5).withAgenda [.wait]).phase.code) = .ok .xpix ∧
    ((atXpix 0 2 5).withAgenda [.wait]).agenda = .wait :: [] := by decide

theorem witness_CtrlStartIsTheWholeCommandSet :
    (readyV20.withAgenda [.command 1#1]).agenda = .command 1#1 :: [] ∧
    (readyV20.withAgenda [.command 0#1, .wait]).agenda = .command 0#1 :: [.wait] ∧
    (readyV20.withAgenda [.readReg .ctrlStart]).agenda = .readReg .ctrlStart :: [] ∧
    (readyV20.withAgenda [.writeReg .ctrlStart 3]).agenda = .writeReg .ctrlStart 3 :: [] ∧ (3 : Word).toNat % 2 = 1 ∧
    (readyV20.withAgenda [.writeReg .ctrlStart 2]).agenda = .writeReg .ctrlStart 2 :: [] ∧ (2 : Word).toNat % 2 = 0 := by
  decide

theorem witness_PlacedInstructionRunsNext :
    decodeTableWord 8 7 = some .xpix ∧ decodeTableWord 8 1 = some .encode ∧ decodeTableWord 4 1 = some .chkdim := by decide

theorem witness_BusyPhasesSelectOneMicroOperation : Phase.busy .chkdim = true ∧ Phase.busy .ret = true ∧
    Phase.busy .idle = false ∧ Phase.busy .done = false ∧ Phase.busy .halt = false := by decide

theorem witness_RstLeavesIdleFromEveryPhase :
    ((inPhase .halt 1 1 1).withAgenda [.rst, .wait]).agenda = .rst :: [.wait] ∧
    ((atXpix 1 0 0).withAgenda [.rst]).agenda = .rst :: [] := by decide

theorem witness_EncHasNoStepWhenNotStarted :
    (inPhase .done 1 1 1).phase = .done ∧ (inPhase .done 1 1 1).agenda = [] ∧
    ((inPhase .idle 1 1 1).withAgenda [.pass]).phase = .idle ∧
    ((inPhase .idle 1 1 1).withAgenda [.pass]).agenda = .pass :: [] ∧ (inPhase .error 0 1 1).phase = .error := by decide

theorem witness_HaltIsLeftOnlyByReset :
    (inPhase .halt 1 1 1).phase = .halt ∧ (inPhase .halt 1 1 1).agenda = [] ∧
    (nextOf (step ((inPhase .halt 1 1 1).withAgenda [.rst]))).map State.phase = some .idle ∧
    (nextOf (step ((inPhase .halt 1 1 1).withAgenda [.pass]))).map State.phase = some .halt := by decide

theorem witness_StartAccepted :
    readyV20.phase = .idle ∧ (inPhase .done 1 1 1).phase = .done ∧ (inPhase .error 1 1 1).phase = .error ∧
    (readyV20.withAgenda [.command 1#1, .wait]).agenda = .command 1#1 :: [.wait] ∧
    Phase.busy .chkdim = true ∧ Phase.busy .ret = true := by decide

theorem witness_StartIgnoredWhileBusyOrHalted :
    (inPhase .chkdim 1 1 1).phase.busy = true ∧ (inPhase .ret 1 1 1).phase.busy = true ∧
    ((inPhase .halt 1 1 1).withAgenda [.command 1#1]).phase = .halt ∧
    ((inPhase .halt 1 1 1).withAgenda [.command 1#1]).agenda = .command 1#1 :: [] := by decide

theorem witness_ChkdimRejectsZero :
    (inPhase .chkdim 0 7 0).width = 0#32 ∧ (inPhase .chkdim 7 0 100).height = 0#32 := by decide

theorem witness_ChkdimRangeCheckAndExit :
    ((inPhase .chkdim 2147483648 1 0).width ≠ 0#32 ∧ (inPhase .chkdim 2147483648 1 0).height ≠ 0#32 ∧
      2147483647 < (inPhase .chkdim 2147483648 1 0).width.toNat) ∧
    ((inPhase .chkdim 2147483647 2147483647 0).width ≠ 0#32 ∧ (inPhase .chkdim 2147483647 2147483647 0).height ≠ 0#32 ∧
      (inPhase .chkdim 2147483647 2147483647 0).width.toNat ≤ 2147483647 ∧
      (inPhase .chkdim 2147483647 2147483647 0).height.toNat ≤ 2147483647 ∧
      (inPhase .chkdim 2147483647 2147483647 0).width.toNat = 2147483647) := by decide

theorem witness_GeomStoresExactGeometryOrRaises :
    ((inPhase .geom 1431655746 1 0).height ≠ 0#32 ∧
      4294967240 = ((24 * (inPhase .geom 1431655746 1 0).width.toNat + 31) / 32) * 4 ∧
      4294967240 = 4294967240 * (inPhase .geom 1431655746 1 0).height.toNat ∧ 4294967294 = 54 + 4294967240 ∧
      4294967294 ≤ 4294967295) ∧
    ((inPhase .geom 1431655747 1 0).height ≠ 0#32 ∧
      4294967244 = ((24 * (inPhase .geom 1431655747 1 0).width.toNat + 31) / 32) * 4 ∧
      4294967244 = 4294967244 * (inPhase .geom 1431655747 1 0).height.toNat ∧ 4294967298 = 54 + 4294967244 ∧
      4294967295 < 4294967298) := by decide

theorem witness_StrideForms : 16 % 4 = 0 ∧ 3 * 5 ≤ 16 := by decide

theorem witness_ChklenChecksTheBufferLength :
    (inPhase .chklen 2 2 3).pixlen.toNat < (inPhase .chklen 2 2 3).width.toNat * (inPhase .chklen 2 2 3).height.toNat ∧
    (inPhase .chklen 2 2 4).width.toNat * (inPhase .chklen 2 2 4).height.toNat ≤ (inPhase .chklen 2 2 4).pixlen.toNat := by
  decide

theorem witness_AllocZeroFillsOrHalts :
    64 < ({ (inPhase .alloc 2 2 4) with flen := 70, outCap := 64 } : State).flen.toNat ∧
    ({ (inPhase .alloc 2 2 4) with flen := 70, outCap := 70 } : State).flen.toNat ≤ 70 ∧
    ({ (inPhase .alloc 1 1 1) with flen := 4294967295 } : State).outCap = 4294967295 := by decide

theorem witness_WfhWritesTheFileHeader : 14 ≤ ({ (inPhase .wfh 1 1 1) with outCap := 14 } : State).outCap := by decide

theorem witness_WdibWritesTheDibHeader :
    54 ≤ ({ (inPhase .wdib 1 1 1) with outCap := 54 } : State).outCap ∧ (inPhase .wdib 1 1 1).height ≠ 0#32 ∧
    (inPhase .wdib 2147483647 1 1).width.toNat < 2 ^ 31 := by decide

/-- The three ways XPIX advances: in the row, at a row's end, at the image's end; OUT_CAP leaves just the file. -/
theorem witness_XpixTransfersOnePixelAndAdvances :
    (atXpix 1 1 1).width ≠ 0 ∧ (atXpix 1 2 2).width ≠ 0 ∧ (atXpix 0 2 5).width ≠ 0 ∧
    ((atXpix 1 1 1).p.toNat < (atXpix 1 1 1).pixlen.toNat ∧ (atXpix 1 1 1).pixWord (atXpix 1 1 1).p = some 0xBB232221 ∧
      69 = 54 + (atXpix 1 1 1).y.toNat * (atXpix 1 1 1).stride.toNat + 3 * (atXpix 1 1 1).x.toNat ∧
      69 + 3 ≤ (atXpix 1 1 1).outCap ∧ (atXpix 1 1 1).x.toNat + 1 < (atXpix 1 1 1).width.toNat) ∧
    ((atXpix 1 2 2).p.toNat < (atXpix 1 2 2).pixlen.toNat ∧ (atXpix 1 2 2).pixWord (atXpix 1 2 2).p = some 0xCC333231 ∧
      72 = 54 + (atXpix 1 2 2).y.toNat * (atXpix 1 2 2).stride.toNat + 3 * (atXpix 1 2 2).x.toNat ∧
      72 + 3 ≤ (atXpix 1 2 2).outCap ∧ (atXpix 1 2 2).width.toNat ≤ (atXpix 1 2 2).x.toNat + 1 ∧
      (atXpix 1 2 2).y ≠ 0#32) ∧
    ((atXpix 0 2 5).p.toNat < (atXpix 0 2 5).pixlen.toNat ∧ (atXpix 0 2 5).pixWord (atXpix 0 2 5).p = some 0xFF636261 ∧
      60 = 54 + (atXpix 0 2 5).y.toNat * (atXpix 0 2 5).stride.toNat + 3 * (atXpix 0 2 5).x.toNat ∧
      60 + 3 ≤ (atXpix 0 2 5).outCap ∧ (atXpix 0 2 5).width.toNat ≤ (atXpix 0 2 5).x.toNat + 1 ∧
      (atXpix 0 2 5).y = 0#32) := by decide

theorem witness_HeightZeroLeavesOnlyStrideAndYOpen :
    (inPhase .geom 5 0 0).height = 0#32 ∧ ((24 * (inPhase .geom 5 0 0).width.toNat + 31) / 32) * 4 < 2 ^ 32 ∧ (inPhase .wdib 5 0 0).height = 0#32 ∧ 54 ≤ (inPhase .wdib 5 0 0).outCap := by
  decide

/-- XPIX with WIDTH = 0, at a row's end and at the image's end. -/
theorem witness_WidthZeroXpixEndsItsRow :
    ∀ y, y = 0 ∨ y = 1 → ((atXpix y 0 1).withWidth 0).width = 0 ∧
      ((atXpix y 0 1).withWidth 0).p.toNat < ((atXpix y 0 1).withWidth 0).pixlen.toNat ∧
      ((atXpix y 0 1).withWidth 0).pixWord ((atXpix y 0 1).withWidth 0).p = some 0xBB232221 ∧
      54 + y.toNat * 12 + 3 ≤ ((atXpix y 0 1).withWidth 0).outCap := by
  rintro y (rfl | rfl) <;> decide

theorem witness_XpixRefusesAbsentPixels :
    (inPhase .xpix 1 1 0).pixlen.toNat ≤ (inPhase .xpix 1 1 0).p.toNat ∧
    (inPhase .xpix 1 1 1).p.toNat < (inPhase .xpix 1 1 1).pixlen.toNat ∧
    (inPhase .xpix 1 1 1).pixWord (inPhase .xpix 1 1 1).p = none := by decide

theorem witness_StoresBeyondOutCapFault :
    ({ (inPhase .wfh 1 1 1) with outCap := 13 } : State).outCap < 14 ∧
    ({ (inPhase .wdib 1 1 1) with outCap := 53 } : State).outCap < 54 ∧
    (({ (atXpix 0 0 3) with outCap := 56 } : State).p.toNat < (atXpix 0 0 3).pixlen.toNat ∧
      (({ (atXpix 0 0 3) with outCap := 56 } : State).pixWord (atXpix 0 0 3).p).isSome = true ∧
      56 < 54 + (atXpix 0 0 3).y.toNat * (atXpix 0 0 3).stride.toNat + 3 * (atXpix 0 0 3).x.toNat + 3) := by decide

/-- Every operation answers a next state somewhere. -/
theorem witness_EncNeverWritesTheHostSide :
    (nextOf (exec .encode readyV20)).isSome ∧ (nextOf (exec .geom (inPhase .geom 1 1 1))).isSome ∧
    (nextOf (exec .xpix (atXpix 1 0 0))).isSome := by decide

theorem witness_HostNeverWritesTheEncSide :
    (((atXpix 1 0 0).withAgenda [.readReg .status]).agenda = .readReg .status :: [] ∧
      (nextOf (step ((atXpix 1 0 0).withAgenda [.readReg .status]))).isSome) ∧
    (((inPhase .done 1 1 1).withAgenda [.wait]).agenda = .wait :: [] ∧ (inPhase .done 1 1 1).phase.busy = false ∧
      (nextOf (step ((inPhase .done 1 1 1).withAgenda [.wait]))).isSome) := by decide

theorem witness_OutIsWrittenByFourOperationsOnly :
    (nextOf (exec .geom (inPhase .geom 1 1 1))).isSome ∧ Instr.geom ≠ .alloc ∧ Instr.geom ≠ .wfh ∧ Instr.geom ≠ .wdib ∧
    Instr.geom ≠ .xpix := by decide

theorem witness_RaiseWritesErrAndPhaseOnly :
    (inPhase .chkdim 0 7 0).phase ≠ .error ∧
    (nextOf (exec .chkdim (inPhase .chkdim 0 7 0))).map (fun t => (t.phase, t.agenda)) = some (.error, []) := by decide

theorem witness_PhaseFollowsTheGraph :
    (nextOf (step (atXpix 0 2 5))).map State.phase = some .ret ∧
    (nextOf (step ((inPhase .halt 1 1 1).withAgenda [.rst]))).map State.phase = some .idle := by decide

theorem witness_XpixRaisesPByOne : (nextOf (exec .xpix (atXpix 1 2 2))).map State.p = some 3 := by decide

/-- A state in the loop that meets the control invariant. -/
theorem witness_Inv : (atXpix 1 2 2).Inv where
  pixCanonical := by decide
  outCanonical := by decide
  outInside := by decide
  errRecorded := by decide
  haltRecorded := by decide
  outlenAbsent := by decide
  outlenDone := by decide
  dimensions := by decide
  geometry := by decide
  buffer := by decide
  allocated := by decide
  counters := by decide

theorem witness_PixelsWritten : (atXpix 1 2 2).PixelsWritten := by
  intro i hi
  have h : i < 6 := hi
  clear hi
  revert i
  decide

theorem witness_HeaderInv : (atXpix 1 2 2).HeaderInv where
  fileHeader := by decide
  dibHeader := by decide

theorem witness_PaddingInv : (atXpix 1 2 2).PaddingInv := by
  intro _ y k hy hk hk2
  have h : y < 2 := hy
  have h1 : 9 ≤ k := hk
  have h2 : k < 12 := hk2
  have g : ∀ y, y < 2 → ∀ k, k < 12 → 9 ≤ k → Memory.read (atXpix 1 2 2).out (54 + y * 12 + k) = some 0#8 := by decide
  exact g y h k h2 h1

/-- For the three invariant statements: a step is taken from that state. -/
theorem witness_StepKeepsTheInvariants : (nextOf (step (atXpix 1 2 2))).isSome := by decide

theorem witness_AddressesStayInBounds : (atXpix 1 2 2).phase.pastGeom = true ∧ (atXpix 1 2 2).phase = .xpix := by decide

theorem witness_NothingCanStopABusyBlock : (atXpix 1 2 2).phase.busy = true ∧ (atXpix 1 2 2).agenda = [] := by decide

theorem witness_XpixNeverWritesPadding :
    (atXpix 1 2 2).phase = .xpix ∧ (nextOf (exec .xpix (atXpix 1 2 2))).isSome ∧
    3 * (atXpix 1 2 2).width.toNat ≤ 9 ∧ 9 < (atXpix 1 2 2).stride.toNat ∧ 11 < (atXpix 1 2 2).stride.toNat := by decide

theorem witness_PixelBytesNeverCollide :
    2 < 3 ∧ 2 < 3 ∧ 2 < 3 ∧ pixelAddress 1 (strideOf 3) 2 + 2 = pixelAddress 1 (strideOf 3) 2 + 2 := by decide

theorem witness_StatusIsAViewOfPhaseAndErr :
    ((inPhase .halt 1 1 1).withAgenda [.readReg .status]).agenda = .readReg .status :: [] ∧
    ((inPhase .halt 1 1 1).withAgenda [.writeReg .status 1]).agenda = .writeReg .status 1 :: [] := by decide

theorem witness_OperandsAreWriteLocked :
    ((inPhase .ret 1 1 1).phase.busy = true ∧
      ((inPhase .ret 1 1 1).withAgenda [.writeReg .width 5]).agenda = .writeReg .width 5 :: []) ∧
    ((inPhase .halt 1 1 1).phase = .halt ∧
      ((inPhase .halt 1 1 1).withAgenda [.writeReg .pixlen 5]).agenda = .writeReg .pixlen 5 :: []) ∧
    ((inPhase .done 1 1 1).phase = .done ∧
      ((inPhase .done 1 1 1).withAgenda [.writeReg .height 5]).agenda = .writeReg .height 5 :: []) := by decide

theorem witness_PixIsWrittenOutsideBusyOnly :
    (((inPhase .chkdim 1 1 1).withAgenda [.writePix 4294967295 1]).agenda = .writePix 4294967295 1 :: [] ∧
      (inPhase .chkdim 1 1 1).phase.busy = true) ∧
    (((inPhase .halt 1 1 1).withAgenda [.writePix 0 1]).agenda = .writePix 0 1 :: [] ∧
      (inPhase .halt 1 1 1).phase.busy = false ∧ (1 : Word) ≠ 0) := by decide

/-- DONE with a file of 58 zero bytes: the last byte may be read, the next may not. -/
def doneV20 : State :=
  { (inPhase .done 1 1 1) with stride := 4, pasize := 4, flen := 58, outlen := 58, out := Memory.zeroFill [] 58 }

theorem witness_doneInv : doneV20.Inv where
  pixCanonical := by decide
  outCanonical := by decide
  outInside := by decide
  errRecorded := by decide
  haltRecorded := by decide
  outlenAbsent := by decide
  outlenDone := by decide
  dimensions := by decide
  geometry := by decide
  buffer := by decide
  allocated := by decide
  counters := by decide

theorem witness_OutIsReadInDoneOnly :
    ((doneV20.withAgenda [.readOut 57]).agenda = .readOut 57 :: [] ∧ doneV20.phase = .done ∧
      (57 : Word).toNat < doneV20.outlen.toNat ∧ Memory.read doneV20.out (57 : Word).toNat = some 0) ∧
    ((doneV20.withAgenda [.readOut 58]).agenda = .readOut 58 :: [] ∧ doneV20.outlen.toNat ≤ (58 : Word).toNat) ∧
    (((inPhase .ret 1 1 1).withAgenda [.readOut 0]).agenda = .readOut 0 :: [] ∧ (inPhase .ret 1 1 1).phase ≠ .done) := by
  decide

theorem witness_HostReadsItsRegistersAndPix :
    (readyV20.withAgenda [.readReg .width]).agenda = .readReg .width :: [] ∧
    (readyV20.withAgenda [.readReg .height]).agenda = .readReg .height :: [] ∧
    (readyV20.withAgenda [.readReg .pixlen]).agenda = .readReg .pixlen :: [] ∧
    (readyV20.withAgenda [.readReg .outlen]).agenda = .readReg .outlen :: [] ∧
    (readyV20.withAgenda [.readPix 0]).agenda = .readPix 0 :: [] ∧ readyV20.pixWord 0 = some 0x00FF8040 ∧
    ((atXpix 1 0 0).withAgenda [.readPix 4294967295]).agenda = .readPix 4294967295 :: [] := by decide

theorem witness_PixReadsRepeat :
    ((inPhase .xpix 1 1 1).withAgenda [.readPix 7, .readPix 7, .wait]).agenda = .readPix 7 :: .readPix 7 :: [.wait] := by
  decide

theorem witness_HostCannotReachInternalRegisters :
    (readyV20.withAgenda [.readReg .p]).agenda = .readReg .p :: [] ∧
    (readyV20.withAgenda [.writeReg .stride 4]).agenda = .writeReg .stride 4 :: [] ∧
    (doneV20.withAgenda [.writeReg .outlen 4]).agenda = .writeReg .outlen 4 :: [] := by decide

theorem witness_WaitEndsWithStatus :
    (((inPhase .error 0 1 1).withAgenda [.wait]).agenda = .wait :: [] ∧ (inPhase .error 0 1 1).phase.busy = false) ∧
    (((inPhase .ret 1 1 1).withAgenda [.wait]).agenda = .wait :: [] ∧ (inPhase .ret 1 1 1).phase.busy = true ∧
      (nextOf (step ((inPhase .ret 1 1 1).withAgenda [.wait]))).isSome) := by decide

theorem witness_BigStepFileHasTheBmpLayout : 1 < 2 ∧ 2 < 3 ∧ 3 * 3 ≤ 9 ∧ 9 < strideOf 3 ∧ 11 < strideOf 3 := by decide

theorem witness_AlphaAndSurplusWordsAreIgnored : ∀ i, i < 1 * 1 →
    ((fun _ => 0x00FF8040 : Nat → Word) i).toNat % 2 ^ 24 = ((fun _ => 0x7FFF8040 : Nat → Word) i).toNat % 2 ^ 24 := by
  intro i _
  show (0x00FF8040 : Word).toNat % 2 ^ 24 = (0x7FFF8040 : Word).toNat % 2 ^ 24
  decide

theorem witness_readyPixels : readyV20.PixelsWritten := by decide

theorem witness_SuccessfulRunRefinesBigStep : readyV20.agenda = [] ∧ readyV20.phase = .idle ∧
    readyV20.encodeMeaning = .done (bmpFile 1 1 readyV20.pixels) := by
  refine ⟨by decide, by decide, ?_⟩
  exact State.encodeMeaning_done_iff.2 ⟨rfl, witness_readyPixels⟩

/-- The four ways an operation does not produce a file, and their step counts (V5, V11c, V8, V11); none is a refusal. -/
theorem witness_FailingRunRefinesBigStep :
    (inPhase .idle 0 7 0).agenda = [] ∧
    ((inPhase .idle 0 7 0).encodeMeaning = .error .invalidDimensions ∧ (inPhase .idle 0 7 0).encodeStepCount = 1) ∧
    ((inPhase .idle 1431655747 1 0).encodeMeaning = .error .invalidDimensions ∧
      (inPhase .idle 1431655747 1 0).encodeStepCount = 2) ∧
    ((inPhase .error 2 2 3).encodeMeaning = .error .bufferTooShort ∧ (inPhase .error 2 2 3).encodeStepCount = 3) ∧
    (({ (inPhase .done 2 2 4) with outCap := 64 } : State).encodeMeaning = .halt ∧
      ({ (inPhase .done 2 2 4) with outCap := 64 } : State).encodeStepCount = 4) := by decide

/-- The 1 by 1 image with another alpha byte, from ERROR instead of IDLE. -/
def readyV15 : State := (withPixels (inPhase .error 1 1 1) 0 [0x7FFF8040]).withErr .invalidDimensions

theorem witness_readyV15Pixels : readyV15.PixelsWritten := by decide

theorem witness_SameInputs : SameInputs readyV20 readyV15 := by
  refine ⟨by decide, by decide, by decide, by decide, fun _ i hi => ?_⟩
  have h : i = 0 := by
    have : i < 1 := hi
    omega
  subst h
  decide

/-- Two operations with too short a buffer (V8) have the same inputs whatever stands in PIX, and both runs end. -/
theorem witness_SameInputsFailing :
    SameInputs (inPhase .idle 2 2 3) (withPixels (inPhase .done 2 2 3) 0 [5]) ∧
    (nextOf (runSteps (inPhase .idle 2 2 3).encodeStepCount (inPhase .idle 2 2 3).start)).isSome ∧
    (nextOf (runSteps 3 (withPixels (inPhase .done 2 2 3) 0 [5]).start)).isSome := by
  refine ⟨⟨by decide, by decide, by decide, by decide, fun ⟨f, h⟩ => ?_⟩, by decide, by decide⟩
  exact absurd (h.symm.trans (by decide : _ = EncodeResult.error .bufferTooShort)) EncodeResult.noConfusion

theorem witness_ResultDependsOnInputsAlone :
    readyV20.phase = .idle ∧ readyV15.phase = .error ∧ readyV20.encodeStepCount = 8 ∧
    readyV15.encodeStepCount = 8 ∧ exec .encode readyV20 = .next readyV20.start ∧
    exec .encode readyV15 = .next readyV15.start := by
  refine ⟨by decide, by decide, by decide, by decide, rfl, rfl⟩

/-- P1 and V15: both operations end in DONE after 8 steps with the pixel bytes FF 80 40 00. -/
theorem witness_runsEnd :
    ((nextOf (runSteps 8 readyV20.start)).map fun t => (t.phase, [54, 55, 56, 57].map (Memory.read t.out))) =
      some (.done, [some 0xFF, some 0x80, some 0x40, some 0]) ∧
    ((nextOf (runSteps 8 readyV15.start)).map fun t => (t.phase, [54, 55, 56, 57].map (Memory.read t.out))) =
      some (.done, [some 0xFF, some 0x80, some 0x40, some 0]) := by decide

/-- 1 by 1, long enough, and no pixel written. -/
theorem witness_MissingPixelRefusesTheRun :
    (inPhase .idle 1 1 1).agenda = [] ∧ (inPhase .idle 1 1 1).phase = .idle ∧
    (inPhase .idle 1 1 1).encodeMeaning = .refused :=
  ⟨rfl, rfl, State.encodeMeaning_refused_iff.2 ⟨⟨_, rfl⟩, by decide⟩⟩

/-! The statements about the call. -/

theorem witness_CallPutsItsArgumentsInPlace :
    (inPhase .error 0 0 0).phase = .error ∧ ([0x000000FF, 0x00FF0000] : List Word).length < 2 ^ 32 ∧
    ((inPhase .error 0 0 0).withAgenda (encodeCall [0x000000FF, 0x00FF0000] 1 2)).agenda =
      encodeCall [0x000000FF, 0x00FF0000] 1 2 ++ [] := by decide

theorem witness_CollectReadsTheWholeOutput :
    (doneV20.withAgenda [.collect]).Inv ∧ (doneV20.withAgenda [.collect]).phase = .done ∧
    (doneV20.withAgenda [.collect]).agenda = .collect :: [] :=
  ⟨{ witness_doneInv with }, rfl, rfl⟩

theorem witness_CollectReadsNothingWithoutOutput :
    ((inPhase .halt 1 1 1).withAgenda [.collect]).agenda = .collect :: [] ∧
    (((inPhase .error 0 7 0).withErr .invalidDimensions).withAgenda [.collect, .rst]).agenda = .collect :: [.rst] := by
  decide

theorem witness_CallReturnsTheBigStepResult :
    (readyV20.withAgenda [.command 1, .wait, .collect]).phase = .idle ∧
    (readyV20.withAgenda [.command 1, .wait, .collect]).agenda = .command 1 :: .wait :: .collect :: [] ∧
    (readyV20.withAgenda [.command 1, .wait, .collect]).encodeMeaning ≠ .refused :=
  ⟨rfl, rfl, fun h => (State.encodeMeaning_refused_iff.1 h).2 witness_readyPixels⟩

theorem witness_RepeatedOperationGivesTheSameResult :
    readyV20.agenda = [] ∧ readyV20.encodeMeaning ≠ .halt ∧ (nextOf (runSteps readyV20.encodeStepCount readyV20.start)).isSome := by
  decide

end Sys2Proof.Tests
end

section
/-! The parts of STATUS, and what a host read and a host write of a register take from the agenda. -/

namespace Sys2Proof.Machine

/-! ### The fields of STATUS (R36) -/

/-- Bits 3:0 of STATUS. -/
@[simp] theorem State.extractLsb'_status_phase (s : State) : s.status.extractLsb' 0 4 = s.phase.code :=
  BitVec.extractLsb'_append_eq_right

/-- Bits 5:4 of STATUS. -/
@[simp] theorem State.extractLsb'_status_err (s : State) : s.status.extractLsb' 4 2 = s.err.code := by
  rw [State.status, BitVec.extractLsb'_append_eq_of_le (by decide)]
  exact BitVec.extractLsb'_append_eq_right

/-- Bits 31:6 of STATUS. -/
@[simp] theorem State.extractLsb'_status_rest (s : State) : s.status.extractLsb' 6 26 = 0#26 := by
  rw [State.status, BitVec.extractLsb'_append_eq_of_le (by decide)]
  exact BitVec.extractLsb'_append_eq_left

/-! ### Register reads and writes of HOST -/

/-- What HOST sees of a register does not depend on what it does next. -/
@[simp] theorem State.hostView_withAgenda (s : State) (l : List HostAction) (r : RegName) :
    (s.withAgenda l).hostView r = s.hostView r := by
  cases r <;> rfl

/-- RD at the head of the agenda is used up and answers what HOST sees of the register (R40). -/
theorem step_readReg {s : State} {r : RegName} {v : Word} {rest : List HostAction}
    (ha : s.agenda = .readReg r :: rest) (hv : s.hostView r = some v) :
    step s = .next ((s.withAgenda rest).withReply (.reg r v)) := by
  simp only [step, turn, ha, hostReadReg, State.hostView_withAgenda, hv]

/-- WR at the head of the agenda is used up and writes the register as `hostWriteReg` says. -/
theorem step_writeReg {s : State} {r : RegName} {v : Word} {rest : List HostAction}
    (ha : s.agenda = .writeReg r v :: rest) : step s = hostWriteReg r v (s.withAgenda rest) := by
  simp only [step, turn, ha]

/-- Settles O41: the fields are read off the concatenation, and the two host accesses are the register rules at STATUS. -/
theorem statusIsAViewOfPhaseAndErr : Obligations.StatusIsAViewOfPhaseAndErr := by
  refine ⟨by decide, fun s => ⟨s.extractLsb'_status_phase, s.extractLsb'_status_err, s.extractLsb'_status_rest, ?_, ?_⟩⟩
  · intro rest ha
    exact step_readReg ha rfl
  · intro rest v ha
    exact step_writeReg ha

end Sys2Proof.Machine
end

section
/-! The validation and geometry micro-operations CHKDIM, GEOM, CHKLEN and ALLOC, one equation per branch
(40_validate_geometry.md), and the obligations about them. -/

namespace Sys2Proof.Machine

/-! ### CHKDIM (R121, R122) -/

/-- The zero check, one disjunction for its three corner cases (R121). -/
theorem execChkdim_of_zero {s : State} (h : s.width.toNat = 0 ∨ s.height.toNat = 0) :
    execChkdim s = .next (s.raise .invalidDimensions) :=
  if_pos h

/-- The range check raises the same error as the zero check (R122). -/
theorem execChkdim_of_above {s : State} (h : Config.dimMax < s.width.toNat ∨ Config.dimMax < s.height.toNat) :
    execChkdim s = .next (s.raise .invalidDimensions) := by
  rw [execChkdim, if_pos h, ite_self]

theorem execChkdim_of_inRange {s : State} (hw0 : s.width.toNat ≠ 0) (hh0 : s.height.toNat ≠ 0)
    (hw : s.width.toNat ≤ Config.dimMax) (hh : s.height.toNat ≤ Config.dimMax) :
    execChkdim s = .next (s.withPhase .geom) := by
  rw [execChkdim, if_neg (not_or.2 ⟨hw0, hh0⟩), if_neg (not_or.2 ⟨hw.not_gt, hh.not_gt⟩)]

/-! ### GEOM (R123, R124) -/

/-- One row is no larger than the whole pixel array once there is a row. -/
theorem strideOf_le_pixelArraySizeOf (w : Nat) {h : Nat} (hh : h ≠ 0) : strideOf w ≤ pixelArraySizeOf w h :=
  Nat.le_mul_of_pos_right _ (Nat.pos_of_ne_zero hh)

theorem fileLengthOf_eq (w h : Nat) : fileLengthOf w h = 54 + pixelArraySizeOf w h := rfl

theorem execGeom_of_tooLong {s : State} (h : Config.flenMax < fileLengthOf s.width.toNat s.height.toNat) :
    execGeom s = .next (s.raise .invalidDimensions) :=
  if_pos h

/-- Where the file length passes and there is a row, the stride fits its register too, so GEOM takes no free value. -/
theorem execGeom_of_fits {s : State} (hh : s.height.toNat ≠ 0)
    (h : fileLengthOf s.width.toNat s.height.toNat ≤ Config.flenMax) :
    execGeom s = .next ((s.withGeometry (BitVec.ofNat 32 (strideOf s.width.toNat))
      (BitVec.ofNat 32 (pixelArraySizeOf s.width.toNat s.height.toNat))
      (BitVec.ofNat 32 (fileLengthOf s.width.toNat s.height.toNat))).withPhase .chklen) := by
  have hstride : strideOf s.width.toNat < 2 ^ 32 := by
    have hrow := strideOf_le_pixelArraySizeOf s.width.toNat hh
    rw [fileLengthOf_eq, Config.flenMax] at h
    omega
  rw [execGeom, if_neg h.not_gt, State.natForReg_of_lt hstride]

/-- A row of 2^31 - 1 pixels alone exceeds FLEN_MAX, so GEOM rejects WIDTH = 2^31 - 1 whatever HEIGHT is (R122). -/
theorem flenMax_lt_fileLengthOf_dimMax {h : Nat} (hh : h ≠ 0) : Config.flenMax < fileLengthOf Config.dimMax h := by
  have hstride : Config.flenMax < strideOf Config.dimMax := by decide
  have hrow := strideOf_le_pixelArraySizeOf Config.dimMax hh
  rw [fileLengthOf_eq]
  omega

/-! ### CHKLEN (R126, R127) and ALLOC (R128, R130) -/

theorem execChklen_of_short {s : State} (h : s.pixlen.toNat < s.width.toNat * s.height.toNat) :
    execChklen s = .next (s.raise .bufferTooShort) :=
  if_pos h

theorem execChklen_of_long {s : State} (h : s.width.toNat * s.height.toNat ≤ s.pixlen.toNat) :
    execChklen s = .next (s.withPhase .alloc) :=
  if_neg h.not_gt

theorem execAlloc_of_exceeds {s : State} (h : s.outCap < s.flen.toNat) : execAlloc s = .next s.haltOutOfMemory :=
  if_pos h

theorem execAlloc_of_fits {s : State} (h : s.flen.toNat ≤ s.outCap) :
    execAlloc s = .next ((s.withOut (Memory.zeroFill s.out s.flen.toNat)).withPhase .wfh) :=
  if_neg h.not_gt

/-! ### The obligations -/

/-- A word other than zero is a positive number: how the obligations' hypotheses meet the checks on naturals. -/
theorem toNat_ne_zero_of_ne {v : Word} (h : v ≠ 0#32) : v.toNat ≠ 0 :=
  BitVec.toNat_ne.1 h

/-- Settles O13: the zero check of CHKDIM takes all three corner cases. -/
theorem chkdimRejectsZero : Obligations.ChkdimRejectsZero := by
  refine ⟨by decide, fun s hzero => execChkdim_of_zero ?_⟩
  exact hzero.imp (congrArg BitVec.toNat) (congrArg BitVec.toNat)

/-- Settles O14: the two outcomes of CHKDIM's range check, and GEOM's rejection of a row that is too long by itself. -/
theorem chkdimRangeCheckAndExit : Obligations.ChkdimRangeCheckAndExit := by
  intro s hw hh
  have hh0 := toNat_ne_zero_of_ne hh
  refine ⟨execChkdim_of_above, execChkdim_of_inRange (toNat_ne_zero_of_ne hw) hh0, fun hmax => ?_⟩
  refine execGeom_of_tooLong ?_
  rw [hmax]
  exact flenMax_lt_fileLengthOf_dimMax hh0

/-- Settles O15: the stride is at most the array size and the array size below the file length, so a file length within
FLEN_MAX makes all three registers exact. -/
theorem geomStoresExactGeometryOrRaises : Obligations.GeomStoresExactGeometryOrRaises := by
  refine ⟨by decide, ?_⟩
  rintro s _ _ _ hh rfl rfl rfl
  have hh0 := toNat_ne_zero_of_ne hh
  refine ⟨execGeom_of_tooLong, fun hfits => ?_⟩
  have hrow := strideOf_le_pixelArraySizeOf s.width.toNat hh0
  have hlen := fileLengthOf_eq s.width.toNat s.height.toNat
  have hmax : fileLengthOf s.width.toNat s.height.toNat ≤ 4294967295 := hfits
  refine ⟨BitVec.ofNat 32 (strideOf s.width.toNat), BitVec.ofNat 32 (pixelArraySizeOf s.width.toNat s.height.toNat),
    BitVec.ofNat 32 (fileLengthOf s.width.toNat s.height.toNat), ?_, ?_, ?_, execGeom_of_fits hh0 hfits⟩
  all_goals exact (BitVec.toNat_ofNat _ _).trans (Nat.mod_eq_of_lt (by omega))

/-- Settles O17: the two branches of CHKLEN's comparison with the exact product. -/
theorem chklenChecksTheBufferLength : Obligations.ChklenChecksTheBufferLength :=
  ⟨by decide, fun _ => ⟨execChklen_of_short, execChklen_of_long⟩⟩

/-- Settles O18: the zero fill is read off `Memory.read_zeroFill`, and a 32-bit FLEN never exceeds the default OUT_CAP. -/
theorem allocZeroFillsOrHalts : Obligations.AllocZeroFillsOrHalts := by
  refine ⟨by decide, fun s => ⟨execAlloc_of_exceeds, fun hfits => ?_, fun hcap => ?_⟩⟩
  · exact ⟨_, execAlloc_of_fits hfits, Memory.read_zeroFill s.out s.flen.toNat⟩
  · rw [hcap]
    exact Nat.le_of_lt_succ s.flen.isLt

end Sys2Proof.Machine
end

section
/-! The header constructor WFH and WDIB (41_header_constructor.md): fields without gaps leave their bytes one after the
other, and the two header tables as such bytes. -/

namespace Sys2Proof.Machine

/-! ### The bytes of a field list -/

@[simp] theorem length_leBytes (n v : Nat) : (leBytes n v).length = n := by
  induction n generalizing v with
  | zero => rfl
  | succ n ih => simp [leBytes, ih]

/-- Byte k of a little-endian number (R12), in the form of `Memory.read_writeLE`. -/
theorem getElem?_leBytes {n k : Nat} (v : Nat) (hk : k < n) :
    (leBytes n v)[k]? = some (BitVec.ofNat 8 (v / 256 ^ k)) := by
  induction n generalizing v k with
  | zero => omega
  | succ n ih =>
    cases k with
    | zero => simp [leBytes]
    | succ k => rw [leBytes, List.getElem?_cons_succ, ih _ (by omega), Memory.ofNat_div_succ]

/-- The four bytes of a register field, in the powers of two of R12. -/
theorem leBytes_four (v : Nat) :
    leBytes 4 v =
      [BitVec.ofNat 8 v, BitVec.ofNat 8 (v / 2 ^ 8), BitVec.ofNat 8 (v / 2 ^ 16), BitVec.ofNat 8 (v / 2 ^ 24)] := by
  simp [leBytes, Nat.div_div_eq_div_mul]

/-- The bytes of the fields, in the order of the list. -/
def fieldBytes (fs : List Field) : List Byte := fs.flatMap fun f => leBytes f.size f.value

/-- The fields follow each other without a gap, the first at address a. -/
def AdjacentFrom : Nat → List Field → Prop
  | _, [] => True
  | a, f :: fs => f.addr = a ∧ AdjacentFrom (a + f.size) fs

@[simp] theorem fieldBytes_cons (f : Field) (fs : List Field) :
    fieldBytes (f :: fs) = leBytes f.size f.value ++ fieldBytes fs := rfl

/-- Adjacent fields leave their bytes one after the other, and every other address as it was (R66). -/
theorem Memory.read_writeFields_of_adjacent (m : Memory) {a : Nat} {fs : List Field} (h : AdjacentFrom a fs) (b : Nat) :
    Memory.read (Memory.writeFields m fs) b =
      if a ≤ b ∧ b < a + (fieldBytes fs).length then (fieldBytes fs)[b - a]? else Memory.read m b := by
  induction fs generalizing m a with
  | nil =>
    have hempty : (fieldBytes []).length = 0 := rfl
    rw [if_neg (by omega)]
    rfl
  | cons f fs ih =>
    obtain ⟨rfl, hfs⟩ := h
    rw [Memory.writeFields, ih _ hfs, Memory.read_writeLE, fieldBytes_cons, List.length_append, length_leBytes]
    by_cases hhead : f.addr ≤ b ∧ b < f.addr + f.size
    · rw [if_neg (by omega), if_pos hhead, if_pos (by omega), List.getElem?_append_left (by rw [length_leBytes]; omega),
        getElem?_leBytes _ (by omega)]
    · by_cases htail : f.addr + f.size ≤ b ∧ b < f.addr + f.size + (fieldBytes fs).length
      · rw [if_pos htail, if_pos (by omega), List.getElem?_append_right (by rw [length_leBytes]; omega),
          length_leBytes, Nat.sub_sub]
      · rw [if_neg htail, if_neg hhead, if_neg (by omega)]

/-! ### The two header tables (R93, R94) -/

theorem adjacentFrom_fileHeaderFields (flen : Nat) : AdjacentFrom 0 (fileHeaderFields flen) := by
  simp [AdjacentFrom, fileHeaderFields]

theorem adjacentFrom_dibHeaderFields (width height pasize : Nat) :
    AdjacentFrom 14 (dibHeaderFields width height pasize) := by
  simp [AdjacentFrom, dibHeaderFields]

/-- The fourteen bytes of R93. -/
theorem fieldBytes_fileHeaderFields (flen : Nat) :
    fieldBytes (fileHeaderFields flen) = [0x42#8, 0x4D#8] ++ leBytes 4 flen ++
      [0x00#8, 0x00#8, 0x00#8, 0x00#8, 0x36#8, 0x00#8, 0x00#8, 0x00#8] := rfl

/-- The forty bytes of R94. -/
theorem fieldBytes_dibHeaderFields (width height pasize : Nat) :
    fieldBytes (dibHeaderFields width height pasize) =
      [0x28#8, 0x00#8, 0x00#8, 0x00#8] ++ leBytes 4 width ++ leBytes 4 height ++
      [0x01#8, 0x00#8, 0x18#8, 0x00#8, 0x00#8, 0x00#8, 0x00#8, 0x00#8] ++ leBytes 4 pasize ++
      [0x13#8, 0x0B#8, 0x00#8, 0x00#8, 0x13#8, 0x0B#8, 0x00#8, 0x00#8,
        0x00#8, 0x00#8, 0x00#8, 0x00#8, 0x00#8, 0x00#8, 0x00#8, 0x00#8] := rfl

/-- WFH's stores fill the addresses below 14 and no other. -/
theorem Memory.read_writeFileHeader (m : Memory) (flen a : Nat) :
    Memory.read (Memory.writeFields m (fileHeaderFields flen)) a =
      if a < 14 then (fieldBytes (fileHeaderFields flen))[a]? else Memory.read m a := by
  rw [Memory.read_writeFields_of_adjacent m (adjacentFrom_fileHeaderFields flen)]
  simp [fieldBytes_fileHeaderFields]

/-- WDIB's stores fill the addresses 14 to 53 and no other. -/
theorem Memory.read_writeDibHeader (m : Memory) (width height pasize a : Nat) :
    Memory.read (Memory.writeFields m (dibHeaderFields width height pasize)) a =
      if 14 ≤ a ∧ a < 54 then (fieldBytes (dibHeaderFields width height pasize))[a - 14]? else Memory.read m a := by
  rw [Memory.read_writeFields_of_adjacent m (adjacentFrom_dibHeaderFields width height pasize)]
  simp [fieldBytes_dibHeaderFields]

/-- The byte at 21 is the top byte of WIDTH, whose bit 7 is 0 for every WIDTH below 2^31 (R148). -/
theorem Memory.read_writeDibHeader_widthTop (m : Memory) {width : Nat} (height pasize : Nat) (hw : width < 2 ^ 31) :
    ∃ b, Memory.read (Memory.writeFields m (dibHeaderFields width height pasize)) 21 = some b ∧ b.toNat < 128 := by
  refine ⟨BitVec.ofNat 8 (width / 2 ^ 24), ?_, ?_⟩
  · rw [Memory.read_writeDibHeader, fieldBytes_dibHeaderFields, leBytes_four width]
    rfl
  · rw [BitVec.toNat_ofNat]
    omega

/-! ### The obligations -/

/-- Settles O19: the state is the equation of WFH inside OUT_CAP, the bytes are the field table of R93. The stored memory
is generalized, or Lean evaluates its writes when it compares the two records. -/
theorem wfhWritesTheFileHeader : Obligations.WfhWritesTheFileHeader := by
  refine ⟨by decide, fun s hcap => ?_⟩
  have hexec := execWfh_of_inside hcap
  have hread := Memory.read_writeFileHeader s.out s.flen.toNat
  generalize Memory.writeFields s.out (fileHeaderFields s.flen.toNat) = o at hexec hread
  refine ⟨o, hexec, fun a => ?_⟩
  rw [hread, fieldBytes_fileHeaderFields, leBytes_four]
  rfl

/-- Settles O20: the state and Y are the equation of WDIB inside OUT_CAP, the bytes are the field table of R94. The stored
memory is generalized as for WFH. -/
theorem wdibWritesTheDibHeader : Obligations.WdibWritesTheDibHeader := by
  intro s hcap hh
  obtain ⟨vy, hy, hexec⟩ := execWdib_of_inside hcap (toNat_ne_zero_of_ne hh)
  have hread := Memory.read_writeDibHeader s.out s.width.toNat s.height.toNat s.pasize.toNat
  have htop := Memory.read_writeDibHeader_widthTop s.out (width := s.width.toNat) s.height.toNat s.pasize.toNat
  generalize Memory.writeFields s.out (dibHeaderFields s.width.toNat s.height.toNat s.pasize.toNat) = o
    at hexec hread htop
  refine ⟨o, vy, hy, hexec, fun a => ?_, htop⟩
  rw [hread, fieldBytes_dibHeaderFields, leBytes_four, leBytes_four, leBytes_four]
  rfl

end Sys2Proof.Machine
end

section
/-! The row transcoder XPIX (42_row_transcoder.md): the three bytes of a pixel word as quotients, one equation per branch of
the advance, and the obligation about one step. -/

namespace Sys2Proof.Machine

/-! ### The channels as numbers (R91) -/

theorem blue_eq_ofNat (w : Word) : blue w = BitVec.ofNat 8 (w.toNat / 2 ^ 16) :=
  congrArg (BitVec.ofNat 8) (Nat.shiftRight_eq_div_pow w.toNat 16)

theorem green_eq_ofNat (w : Word) : green w = BitVec.ofNat 8 (w.toNat / 2 ^ 8) :=
  congrArg (BitVec.ofNat 8) (Nat.shiftRight_eq_div_pow w.toNat 8)

theorem red_eq_ofNat (w : Word) : red w = BitVec.ofNat 8 w.toNat := rfl

/-! ### The counters keep within their 32 bits -/

/-- A counter below some register does not wrap when it is raised. -/
theorem toNat_add_one_of_lt {v u : Word} (h : v.toNat < u.toNat) : (v + 1).toNat = v.toNat + 1 := by
  bv_omega

theorem toNat_sub_one_of_ne {v : Word} (h : v ≠ 0#32) : (v - 1).toNat = v.toNat - 1 := by
  bv_omega

/-! ### The three branches of the advance (R172) -/

theorem advance_inRow {s : State} (hx : s.x.toNat + 1 < s.width.toNat) :
    advance s = { s with x := s.x + 1, p := s.p + 1 } := by
  obtain ⟨_, ht⟩ | ⟨_, _, _⟩ | ⟨_, _, _⟩ := advance_cases s
  · exact ht
  · omega
  · omega

theorem advance_atRowEnd {s : State} (hx : s.width.toNat ≤ s.x.toNat + 1) (hy : s.y.toNat ≠ 0) :
    advance s = { s with y := s.y - 1, x := 0, p := s.p + 1 } := by
  obtain ⟨_, _⟩ | ⟨_, _, ht⟩ | ⟨_, _, _⟩ := advance_cases s
  · omega
  · exact ht
  · omega

theorem advance_atImageEnd {s : State} (hx : s.width.toNat ≤ s.x.toNat + 1) (hy : s.y.toNat = 0) :
    advance s = { s with x := 0, p := s.p + 1, phase := .ret } := by
  obtain ⟨_, _⟩ | ⟨_, _, _⟩ | ⟨_, _, ht⟩ := advance_cases s
  · omega
  · omega
  · exact ht

/-! ### The obligation -/

/-- Settles O21: the stores are those of one pixel, and each branch of R172 is the advance of the state after them. WIDTH = 0
needs no case of its own: the premise excludes it, and the branches hold without it. The stored memory is generalized as for
WFH. -/
theorem xpixTransfersOnePixelAndAdvances : Obligations.XpixTransfersOnePixelAndAdvances := by
  rintro s w _ - hp hw rfl hcap
  have hexec := execXpix_of_written hp hw hcap
  have hread := Memory.read_writePixel s.out (pixelAddress s.y.toNat s.stride.toNat s.x.toNat) w
  generalize Memory.writeFields s.out (pixelFields (pixelAddress s.y.toNat s.stride.toNat s.x.toNat) w) = o
    at hexec hread
  refine ⟨o, s.p + 1, toNat_add_one_of_lt hp, fun hx => ?inRow, fun hx hy => ?atRowEnd, fun hx hy => ?atImageEnd, ?bytes⟩
  case inRow =>
    exact ⟨s.x + 1, toNat_add_one_of_lt (Nat.lt_of_succ_lt hx),
      hexec.trans (congrArg _ (advance_inRow (s := s.withOut o) hx))⟩
  case atRowEnd =>
    exact ⟨s.y - 1, toNat_sub_one_of_ne hy,
      hexec.trans (congrArg _ (advance_atRowEnd (s := s.withOut o) hx (toNat_ne_zero_of_ne hy)))⟩
  case atImageEnd =>
    exact hexec.trans (congrArg _ (advance_atImageEnd (s := s.withOut o) hx (congrArg BitVec.toNat hy)))
  case bytes =>
    rw [← blue_eq_ofNat, ← green_eq_ofNat, ← red_eq_ofNat]
    exact hread

end Sys2Proof.Machine
end

section
/-! The two ends of the ENCODE operation (43_encode_operation.md): START accepted and ignored, the write lock it sets, and
what no operation of ENC writes. -/

namespace Sys2Proof.Machine

/-! ### Where START is accepted (R190) and where it is ignored (R198) -/

theorem Phase.hostIdle_iff (q : Phase) : q.hostIdle = true ↔ q = .idle ∨ q = .done ∨ q = .error := by
  cases q <;> decide

theorem Phase.hostIdle_eq_false_iff (q : Phase) : q.hostIdle = false ↔ q.busy = true ∨ q = .halt := by
  cases q <;> decide

theorem execEncode_of_hostIdle {s : State} (h : s.phase.hostIdle = true) : execEncode s = .next s.start :=
  if_pos h

theorem execEncode_of_not_hostIdle {s : State} (h : s.phase.hostIdle = false) : execEncode s = .next s :=
  if_neg (Bool.eq_false_iff.1 h)

/-- A write of 1 to CTRL.START at the head of the agenda is used up and runs ENCODE (R39). -/
theorem step_start {s : State} {rest : List HostAction} (ha : s.agenda = .command 1#1 :: rest) :
    step s = execEncode (s.withAgenda rest) := by
  rw [step, turn, ha]
  rfl

/-! ### The write lock of the operand registers (R40) -/

theorem State.hostSetOperand_of_not_hostIdle {s : State} (t : State) (h : s.phase.hostIdle = false) :
    s.hostSetOperand t = s :=
  if_neg (Bool.eq_false_iff.1 h)

theorem hostWriteReg_operand_of_not_hostIdle {s : State} {r : RegName} (v : Word)
    (hr : r = .width ∨ r = .height ∨ r = .pixlen) (h : s.phase.hostIdle = false) : hostWriteReg r v s = .next s := by
  obtain rfl | rfl | rfl := hr <;> exact congrArg _ (State.hostSetOperand_of_not_hostIdle _ h)

/-! ### What the updates of ENC leave to HOST (R196) -/

@[simp] theorem SameHostSide.refl (s : State) : SameHostSide s s := ⟨rfl, rfl, rfl, rfl, rfl, rfl, rfl, rfl⟩

@[simp] theorem sameHostSide_withGeometry {s t : State} (st pa fl : Word) :
    SameHostSide s (t.withGeometry st pa fl) ↔ SameHostSide s t := Iff.rfl

@[simp] theorem sameHostSide_withPhase {s t : State} (q : Phase) : SameHostSide s (t.withPhase q) ↔ SameHostSide s t :=
  Iff.rfl

@[simp] theorem sameHostSide_withCounters {s t : State} (vy vx vp : Word) :
    SameHostSide s (t.withCounters vy vx vp) ↔ SameHostSide s t := Iff.rfl

@[simp] theorem sameHostSide_withErr {s t : State} (e : ErrCode) : SameHostSide s (t.withErr e) ↔ SameHostSide s t :=
  Iff.rfl

@[simp] theorem sameHostSide_withOutlen {s t : State} (v : Word) : SameHostSide s (t.withOutlen v) ↔ SameHostSide s t :=
  Iff.rfl

@[simp] theorem sameHostSide_withOut {s t : State} (m : Memory) : SameHostSide s (t.withOut m) ↔ SameHostSide s t :=
  Iff.rfl

@[simp] theorem sameHostSide_withDraws {s t : State} (n : Nat) : SameHostSide s (t.withDraws n) ↔ SameHostSide s t :=
  Iff.rfl

@[simp] theorem sameHostSide_raise (s : State) (e : TypedError) : SameHostSide s (s.raise e) := by
  simp [State.raise]

@[simp] theorem sameHostSide_haltOutOfMemory (s : State) : SameHostSide s s.haltOutOfMemory := by
  simp [State.haltOutOfMemory]

@[simp] theorem sameHostSide_start (s : State) : SameHostSide s s.start := by
  simp [State.start]

@[simp] theorem sameHostSide_advance {s t : State} : SameHostSide s (advance t) ↔ SameHostSide s t := by
  obtain ⟨_, h⟩ | ⟨_, _, h⟩ | ⟨_, _, h⟩ := advance_cases t <;> rw [h] <;> exact Iff.rfl

/-! ### The obligations -/

/-- Settles O11: START is accepted exactly where HOST may write the operand registers, and no BUSY phase is one of these. -/
theorem startAccepted : Obligations.StartAccepted := by
  refine ⟨by decide, fun s hq => ?_⟩
  have hidle := s.phase.hostIdle_iff.2 hq
  refine ⟨execEncode_of_hostIdle hidle, fun rest ha => ?_, fun q r v rest hbusy hr => ?_⟩
  · rw [step_start ha]
    exact execEncode_of_hostIdle hidle
  · rw [step_writeReg rfl]
    exact hostWriteReg_operand_of_not_hostIdle v hr (q.hostIdle_eq_false_iff.2 (.inl hbusy))

/-- Settles O12: BUSY and HALT are the phases that do not accept START. -/
theorem startIgnoredWhileBusyOrHalted : Obligations.StartIgnoredWhileBusyOrHalted := by
  intro s hq
  have hidle := s.phase.hostIdle_eq_false_iff.2 hq
  refine ⟨execEncode_of_not_hostIdle hidle, fun rest ha => ?_⟩
  rw [step_start ha]
  exact execEncode_of_not_hostIdle hidle

/-- Settles O27: each operation's inversion lemma names its next state, which is built from updates that leave the host's
side. -/
theorem encNeverWritesTheHostSide : Obligations.EncNeverWritesTheHostSide := by
  intro i s t h
  cases i with
  | encode => obtain ⟨_, rfl⟩ | ⟨_, rfl⟩ := execEncode_next h <;> simp
  | chkdim => obtain rfl | ⟨_, _, _, _, rfl⟩ := execChkdim_next h <;> simp
  | geom => obtain rfl | ⟨_, _, _, _, rfl⟩ := execGeom_next h <;> simp
  | chklen => obtain rfl | ⟨_, rfl⟩ := execChklen_next h <;> simp
  | alloc => obtain rfl | ⟨_, rfl⟩ := execAlloc_next h <;> simp
  | wfh =>
    obtain ⟨_, rfl⟩ := execWfh_next h
    simp
  | wdib =>
    obtain ⟨_, _, _, _, rfl⟩ := execWdib_next h
    simp
  | xpix =>
    obtain ⟨_, _, _, _, rfl⟩ := execXpix_next h
    simp
  | ret =>
    obtain rfl := execRet_next h
    simp

end Sys2Proof.Machine
end

section
/-! The operand registers under HOST's writes: locked while BUSY or in HALT, taken otherwise (70_reset_and_hazards.md). -/

namespace Sys2Proof.Machine

theorem State.hostSetOperand_of_hostIdle {s : State} (t : State) (h : s.phase.hostIdle = true) : s.hostSetOperand t = t :=
  if_pos h

/-- WR to an operand register at the head of the agenda is only used up where the lock is set (R245). -/
theorem step_writeOperand_of_not_hostIdle {s : State} {r : RegName} {v : Word} {rest : List HostAction}
    (hr : r = .width ∨ r = .height ∨ r = .pixlen) (h : s.phase.hostIdle = false)
    (ha : s.agenda = .writeReg r v :: rest) : step s = .next (s.withAgenda rest) :=
  (step_writeReg ha).trans (hostWriteReg_operand_of_not_hostIdle v hr h)

/-- Settles O42: the phases fall into those that lock the operand registers and those that leave them to HOST. -/
theorem operandsAreWriteLocked : Obligations.OperandsAreWriteLocked := by
  refine fun s rest v => ⟨fun hq ha => ?locked, fun hq => ?taken⟩
  case locked =>
    have hidle := s.phase.hostIdle_eq_false_iff.2 hq
    obtain ha | ha | ha := ha
    · exact step_writeOperand_of_not_hostIdle (.inl rfl) hidle ha
    · exact step_writeOperand_of_not_hostIdle (.inr (.inl rfl)) hidle ha
    · exact step_writeOperand_of_not_hostIdle (.inr (.inr rfl)) hidle ha
  case taken =>
    have hset (t : State) : (s.withAgenda rest).hostSetOperand t = t :=
      State.hostSetOperand_of_hostIdle t (s.phase.hostIdle_iff.2 hq)
    exact ⟨fun ha => (step_writeReg ha).trans (congrArg _ (hset _)),
      fun ha => (step_writeReg ha).trans (congrArg _ (hset _)),
      fun ha => (step_writeReg ha).trans (congrArg _ (hset _))⟩

end Sys2Proof.Machine
end

section
/-! Codes and turns: what the decoder reads (R100 to R103, R109), whose turn a step is (R30, R39), and reset (R50, R240). -/

namespace Sys2Proof.Machine

/-! ### The decoder -/

/-- Settles O1: the map is a finite table. -/
theorem codesDecodeAsTheMapSays : Obligations.CodesDecodeAsTheMapSays := by
  unfold Obligations.CodesDecodeAsTheMapSays
  decide

theorem decode_encode (i : Instr) : decode (encode i) = .ok i := by
  cases i <;> rfl

/-- A code that selects an operation is the operation's own code (R102). -/
theorem encode_of_decode {c : Code} {i : Instr} (h : decode c = .ok i) : encode i = c := by
  cases c with
  | command b =>
    simp only [decode, decodeCommand] at h
    split at h
    · rename_i hb
      obtain rfl := Except.ok.inj h
      exact congrArg Code.command hb.symm
    · cases h
  | phase c =>
    simp only [decode, decodePhase] at h
    split at h <;> rename_i hc <;> cases h <;> exact congrArg Code.phase (BitVec.eq_of_toNat_eq hc.symm)

/-- The two checks of well-formedness accept exactly what the decoder does. -/
theorem wellFormed_eq_isOk (c : Code) : c.wellFormed = (decode c).isOk := by
  cases c with
  | command b => revert b; decide
  | phase c => revert c; decide

theorem wellFormed_iff_decodes (c : Code) : c.wellFormed = true ↔ ∃ i, decode c = .ok i := by
  rw [wellFormed_eq_isOk]
  cases decode c <;> simp [Except.isOk, Except.toBool]

/-- Settles O2: the code of an operation decodes to it, and what decodes is well-formed. -/
theorem decodeAndEncodeAgree : Obligations.DecodeAndEncodeAgree := by
  refine ⟨decode_encode, fun c => (wellFormed_iff_decodes c).trans ?_⟩
  exact exists_congr fun i => ⟨fun h => ⟨h, encode_of_decode h⟩, And.left⟩

theorem Phase.busy_iff_code (q : Phase) : q.busy = true ↔ 1 ≤ q.code.toNat ∧ q.code.toNat ≤ 8 := by
  cases q <;> decide

/-- Settles O6: a phase is BUSY where its code decodes, and what decodes is the operation's code. -/
theorem busyPhasesSelectOneMicroOperation : Obligations.BusyPhasesSelectOneMicroOperation := by
  refine fun q => ⟨q.busy_iff_code, fun hbusy => ?_, fun hidle i hi => ?_⟩
  · obtain ⟨i, hi⟩ := q.busy_iff_decodes.1 hbusy
    exact ⟨i, hi, encode_of_decode hi⟩
  · rw [q.busy_iff_decodes.2 ⟨i, hi⟩] at hidle
    cases hidle

/-! ### ENC's turns -/

theorem step_nil {s : State} (ha : s.agenda = []) : step s = encTurn s := by
  rw [step, turn, ha]

theorem step_pass {s : State} {rest : List HostAction} (ha : s.agenda = .pass :: rest) :
    step s = passTurn (s.withAgenda rest) := by
  rw [step, turn, ha]

theorem step_wait {s : State} {rest : List HostAction} (ha : s.agenda = .wait :: rest) : step s = waitTurn rest s := by
  rw [step, turn, ha]

theorem waitTurn_of_busy {s : State} (rest : List HostAction) (h : s.phase.busy = true) : waitTurn rest s = encTurn s :=
  if_pos h

theorem waitTurn_of_not_busy {s : State} (rest : List HostAction) (h : s.phase.busy = false) :
    waitTurn rest s = hostWaitOver (s.withAgenda rest) :=
  if_neg (Bool.eq_false_iff.1 h)

theorem passTurn_of_busy {s : State} (h : s.phase.busy = true) : passTurn s = encTurn s := if_pos h

theorem passTurn_of_not_busy {s : State} (h : s.phase.busy = false) : passTurn s = .next s :=
  if_neg (Bool.eq_false_iff.1 h)

/-- Settles O3: a phase that decodes is BUSY, and then each of the three turns is ENC's. -/
theorem stepRunsTheSelectedMicroOperation : Obligations.StepRunsTheSelectedMicroOperation := by
  intro s i hi
  have hbusy : s.phase.busy = true := s.phase.busy_iff_decodes.2 ⟨i, hi⟩
  refine ⟨fun ha => step_of_decodes ha hi, fun rest ha => ?_, fun rest ha => ?_⟩
  · rw [step_pass ha, passTurn_of_busy (s := s.withAgenda rest) hbusy]
    exact encTurn_of_decodes hi
  · rw [step_wait ha, waitTurn_of_busy rest hbusy, encTurn_of_decodes hi]

theorem not_busy_of_settled {q : Phase} (h : q = .idle ∨ q = .done ∨ q = .error) : q.busy = false := by
  obtain rfl | rfl | rfl := h <;> rfl

/-- With nothing for HOST to do, a block that has no operation under way stays as it is (log 9). -/
theorem step_nil_of_settled {s : State} (hq : s.phase = .idle ∨ s.phase = .done ∨ s.phase = .error)
    (ha : s.agenda = []) : step s = .next s := by
  rw [step_nil ha, encTurn_of_not_busy (not_busy_of_settled hq), if_neg]
  obtain h | h | h := hq <;> rw [h] <;> decide

/-- Settles O9: none of the three phases is BUSY or HALT. -/
theorem encHasNoStepWhenNotStarted : Obligations.EncHasNoStepWhenNotStarted := by
  refine fun s hq => ⟨step_nil_of_settled hq, fun rest ha => ?_⟩
  rw [step_pass ha]
  exact passTurn_of_not_busy (s := s.withAgenda rest) (not_busy_of_settled hq)

/-! ### Commands -/

theorem step_command {s : State} {b : BitVec 1} {rest : List HostAction} (ha : s.agenda = .command b :: rest) :
    step s = commandTurn b (s.withAgenda rest) := by
  rw [step, turn, ha]

/-- Bit 0 of a word is its parity. -/
theorem extractLsb'_zero_one_eq (v : Word) : v.extractLsb' 0 1 = BitVec.ofNat 1 (v.toNat % 2) := by
  apply BitVec.eq_of_toNat_eq
  simp

/-- Settles O4: bit 1 decodes to ENCODE and bit 0 to nothing, by the command and by the register's name alike. -/
theorem ctrlStartIsTheWholeCommandSet : Obligations.CtrlStartIsTheWholeCommandSet := by
  refine fun s rest => ⟨step_command, step_command, fun ha => step_readReg ha rfl,
    fun v ha => ⟨fun hv => ?_, fun hv => ?_⟩⟩
  all_goals
    rw [step_writeReg ha, hostWriteReg, extractLsb'_zero_one_eq, hv]
    rfl

/-! ### The placing of an instruction (log 18) -/

/-- A phase code that decodes names the phase whose code it is. -/
theorem Phase.ofCode_of_decodes {c : BitVec 4} {i : Instr} (h : decode (.phase c) = .ok i) :
    ∃ q, Phase.ofCode c = some q ∧ q.code = c := by
  have hc := encode_of_decode h
  cases i with
  | encode => cases hc
  | chkdim => cases hc; exact ⟨.chkdim, rfl, rfl⟩
  | geom => cases hc; exact ⟨.geom, rfl, rfl⟩
  | chklen => cases hc; exact ⟨.chklen, rfl, rfl⟩
  | alloc => cases hc; exact ⟨.alloc, rfl, rfl⟩
  | wfh => cases hc; exact ⟨.wfh, rfl, rfl⟩
  | wdib => cases hc; exact ⟨.wdib, rfl, rfl⟩
  | xpix => cases hc; exact ⟨.xpix, rfl, rfl⟩
  | ret => cases hc; exact ⟨.ret, rfl, rfl⟩

/-- A placed phase takes the next turn, whether or not HOST has something in mind. -/
theorem step_placeCode_phase {s : State} {c : BitVec 4} {i : Instr} (h : decode (.phase c) = .ok i) :
    ∃ q, step (placeCode (.phase c) s) = exec i (s.withPhase q) := by
  obtain ⟨q, hq, rfl⟩ := Phase.ofCode_of_decodes h
  refine ⟨q, ?_⟩
  simp only [placeCode, hq]
  cases ha : s.agenda with
  | nil =>
    have hs : (s.withPhase q).withAgenda [] = s.withPhase q := by rw [← ha]; rfl
    rw [if_pos rfl, hs]
    exact step_of_decodes ha h
  | cons a rest =>
    rw [if_neg (List.cons_ne_nil a rest)]
    obtain ⟨-, hpass, -⟩ := stepRunsTheSelectedMicroOperation ((s.withPhase q).withAgenda (.pass :: a :: rest)) i h
    rw [hpass _ rfl, ← ha]
    rfl

/-- Settles O5: a placed command stands at the head of the agenda, a placed phase in PHASE. -/
theorem placedInstructionRunsNext : Obligations.PlacedInstructionRunsNext := by
  intro s nbits w i hi
  simp only [decodeTableWord] at hi
  simp only [State.withFetchWord]
  cases hc : tableCode nbits w with
  | none => simp [hc] at hi
  | some c =>
    simp only [hc] at hi
    have hdec : decode c = .ok i := by
      cases hd : decode c <;> simp_all [Except.toOption]
    cases c with
    | command b =>
      refine ⟨s.phase, ?_, fun _ => rfl⟩
      exact (step_command rfl).trans (by rw [commandTurn, hdec]; rfl)
    | phase c =>
      obtain ⟨q, hq⟩ := step_placeCode_phase (s := s) hdec
      refine ⟨q, hq, ?_⟩
      rintro rfl
      exact absurd (encode_of_decode hdec) Code.noConfusion

/-! ### Reset -/

/-- Settles O7: the values of `State.reset`. -/
theorem resetLeavesIdle : Obligations.ResetLeavesIdle := by
  unfold Obligations.ResetLeavesIdle
  decide

/-- STATUS shows nothing but PHASE and ERR. -/
theorem State.status_of_idle {s : State} (hq : s.phase = .idle) (he : s.err = .none) : s.status = 0#32 := by
  rw [State.status, hq, he]
  decide

/-- Settles O8: RST takes its turn in every state. -/
theorem rstLeavesIdleFromEveryPhase : Obligations.RstLeavesIdleFromEveryPhase := by
  intro s rest ha
  refine ⟨(s.withAgenda rest).applyRst, ?_, rfl, rfl, rfl, State.status_of_idle rfl rfl, rfl, rfl, rfl⟩
  rw [step, turn, ha]

end Sys2Proof.Machine
end

section
/-! Whose turn it is, phase by phase: what a step that answers a next state was, with the phase that allowed it. Every
invariant is derived from `stepEffect_of_next`. -/

namespace Sys2Proof.Machine

/-- What one step does to the state u it acts on, the agenda apart; a is the action at the head of the agenda. -/
inductive StepEffect (a : Option HostAction) (u t : State) : Prop
  | chkdim (hp : u.phase = .chkdim) (h : execChkdim u = .next t)
  | geom (hp : u.phase = .geom) (h : execGeom u = .next t)
  | chklen (hp : u.phase = .chklen) (h : execChklen u = .next t)
  | alloc (hp : u.phase = .alloc) (h : execAlloc u = .next t)
  | wfh (hp : u.phase = .wfh) (h : execWfh u = .next t)
  | wdib (hp : u.phase = .wdib) (h : execWdib u = .next t)
  | xpix (hp : u.phase = .xpix) (h : execXpix u = .next t)
  | ret (hp : u.phase = .ret) (h : execRet u = .next t)
  | start (hp : u.phase.hostIdle = true) (h : t = u.start)
  | host (h : HostEffect u t)
  | reset (ha : a = some .rst) (h : t = u.applyRst)

/-- `step_next_cases` with the micro-operation named by its phase (R31, R102). -/
theorem stepEffect_of_next {s t : State} (h : step s = .next t) :
    ∃ l, StepEffect s.agenda.head? (s.withAgenda l) t := by
  obtain ⟨i, l, hi, he⟩ | ⟨l, hp, ht⟩ | ⟨l, hh⟩ | ⟨l, ha, ht⟩ := step_next_cases h
  · refine ⟨l, ?_⟩
    obtain ⟨hp, rfl⟩ | ⟨hp, rfl⟩ | ⟨hp, rfl⟩ | ⟨hp, rfl⟩ | ⟨hp, rfl⟩ | ⟨hp, rfl⟩ | ⟨hp, rfl⟩ | ⟨hp, rfl⟩ :=
      phase_of_decodes hi
    · exact .chkdim hp he
    · exact .geom hp he
    · exact .chklen hp he
    · exact .alloc hp he
    · exact .wfh hp he
    · exact .wdib hp he
    · exact .xpix hp he
    · exact .ret hp he
  · exact ⟨l, .start hp ht⟩
  · exact ⟨l, .host hh⟩
  · exact ⟨l, .reset ha ht⟩

/-- What ENC alone writes, HOST's own actions leave. -/
theorem HostEffect.sameEncSide {u t : State} (h : HostEffect u t) : SameEncSide u t := by
  obtain rfl | ⟨_, v, rfl | rfl | rfl⟩ | ⟨_, i, w, rfl⟩ | ⟨q, rfl⟩ := h <;>
    exact ⟨rfl, rfl, rfl, rfl, rfl, rfl, rfl, rfl, rfl, rfl⟩

theorem HostEffect.outCap_eq {u t : State} (h : HostEffect u t) : t.outCap = u.outCap := by
  obtain rfl | ⟨_, v, rfl | rfl | rfl⟩ | ⟨_, i, w, rfl⟩ | ⟨q, rfl⟩ := h <;> rfl

/-- While HOST may not write the operand registers, its own actions leave them. -/
theorem HostEffect.operands_eq {u t : State} (h : HostEffect u t) (hp : u.phase.hostIdle = false) :
    t.width = u.width ∧ t.height = u.height ∧ t.pixlen = u.pixlen := by
  obtain rfl | ⟨hi, _⟩ | ⟨_, i, w, rfl⟩ | ⟨q, rfl⟩ := h
  · exact ⟨rfl, rfl, rfl⟩
  · rw [hp] at hi
    cases hi
  · exact ⟨rfl, rfl, rfl⟩
  · exact ⟨rfl, rfl, rfl⟩

end Sys2Proof.Machine
end

section
/-! The arithmetic of the pixel array: the stride, rows that do not overlap, and the pixel index (R123, R174, R176). -/

namespace Sys2Proof.Machine

/-- R123's form with WIDTH mod 4: the padding length made explicit. -/
theorem strideOf_eq (w : Nat) : strideOf w = 3 * w + w % 4 := by
  unfold strideOf
  omega

theorem three_mul_le_strideOf (w : Nat) : 3 * w ≤ strideOf w := by
  have := strideOf_eq w
  omega

theorem strideOf_mod_four (w : Nat) : strideOf w % 4 = 0 := by
  unfold strideOf
  omega

/-- A row and an offset below the stride are read back from their address. -/
theorem row_offset_unique {st y y' k k' : Nat} (hk : k < st) (hk' : k' < st) (h : y * st + k = y' * st + k') :
    y = y' ∧ k = k' := by
  have hst : 0 < st := Nat.zero_lt_of_lt hk
  have hrow (r j : Nat) (hj : j < st) : (r * st + j) / st = r ∧ (r * st + j) % st = j := by
    rw [Nat.mul_comm, Nat.mul_add_div hst, Nat.div_eq_of_lt hj, Nat.mul_add_mod, Nat.mod_eq_of_lt hj]
    exact ⟨rfl, rfl⟩
  obtain ⟨hd, hm⟩ := hrow y k hk
  obtain ⟨hd', hm'⟩ := hrow y' k' hk'
  rw [h] at hd hm
  exact ⟨hd.symm.trans hd', hm.symm.trans hm'⟩

/-- A row that exists ends inside the pixel array. -/
theorem row_end_le {st h y : Nat} (hy : y < h) : y * st + st ≤ st * h := by
  rw [← Nat.succ_mul, Nat.mul_comm st]
  exact Nat.mul_le_mul_right st hy

/-- The index of a pixel is below WIDTH * HEIGHT (R174). -/
theorem pixelIndex_lt {w h y x : Nat} (hy : y < h) (hx : x < w) : (h - 1 - y) * w + x < w * h := by
  have := row_end_le (st := w) (h := h) (y := h - 1 - y) (by omega)
  omega

/-- The row above continues the pixel index where the row ends (R172, R174). -/
theorem pixelIndex_next_row {w h y : Nat} (hy0 : 0 < y) (hy : y < h) : (h - 1 - (y - 1)) * w = (h - 1 - y) * w + w := by
  rw [← Nat.succ_mul]
  congr 1
  omega

end Sys2Proof.Machine
end

section
/-! The control and geometry invariant, phase by phase, and that every step keeps it. -/

namespace Sys2Proof.Machine

/-! ### What the invariant says in each phase -/

/-- Both memories are in canonical form, and OUT is inside OUT_CAP. -/
def State.MemoriesInv (s : State) : Prop :=
  Memory.wf s.pix ∧ Memory.wf s.out ∧ ∀ c, c ∈ s.out → c.1 < s.outCap

/-- No error is recorded and no output is handed over. -/
def State.Quiet (s : State) : Prop := s.err = .none ∧ s.outlen = 0

/-- CHKDIM's finding (R122). -/
def State.DimensionsInRange (s : State) : Prop :=
  1 ≤ s.width.toNat ∧ s.width.toNat ≤ Config.dimMax ∧ 1 ≤ s.height.toNat ∧ s.height.toNat ≤ Config.dimMax

/-- GEOM's result (R123, R124). -/
def State.GeometryExact (s : State) : Prop :=
  s.stride.toNat = strideOf s.width.toNat ∧ s.pasize.toNat = pixelArraySizeOf s.width.toNat s.height.toNat ∧
    s.flen.toNat = fileLengthOf s.width.toNat s.height.toNat

/-- CHKLEN's finding (R126). -/
def State.BufferLongEnough (s : State) : Prop := s.width.toNat * s.height.toNat ≤ s.pixlen.toNat

/-- ALLOC's result (R128, R130). -/
def State.FileAllocated (s : State) : Prop :=
  s.flen.toNat ≤ s.outCap ∧ ∀ a, a < s.flen.toNat → (Memory.read s.out a).isSome

/-- The counters name a pixel, and P is its index (R174). -/
def State.CountersNamePixel (s : State) : Prop :=
  s.y.toNat < s.height.toNat ∧ s.x.toNat < s.width.toNat ∧
    s.p.toNat = (s.height.toNat - 1 - s.y.toNat) * s.width.toNat + s.x.toNat

/-- The file is handed over (R193, R199). -/
def State.FileHandedOver (s : State) : Prop :=
  s.outlen = s.flen ∧ 58 ≤ s.outlen.toNat ∧ s.outlen.toNat % 4 = 2 ∧
    ∀ a, a < s.outlen.toNat → (Memory.read s.out a).isSome

/-- What an operation under way has established up to the first byte of its file. -/
def State.Admitted (s : State) : Prop :=
  s.Quiet ∧ s.DimensionsInRange ∧ s.GeometryExact ∧ s.BufferLongEnough

theorem State.Admitted.quiet {s : State} (h : s.Admitted) : s.Quiet := h.1
theorem State.Admitted.dimensions {s : State} (h : s.Admitted) : s.DimensionsInRange := h.2.1
theorem State.Admitted.geometry {s : State} (h : s.Admitted) : s.GeometryExact := h.2.2.1
theorem State.Admitted.buffer {s : State} (h : s.Admitted) : s.BufferLongEnough := h.2.2.2

/-- What the invariant says besides the memories, with PHASE at q. -/
def State.PhaseFacts (s : State) : Phase → Prop
  | .idle => s.Quiet
  | .chkdim => s.Quiet
  | .geom => s.Quiet ∧ s.DimensionsInRange
  | .chklen => s.Quiet ∧ s.DimensionsInRange ∧ s.GeometryExact
  | .alloc => s.Admitted
  | .wfh => s.Admitted ∧ s.FileAllocated
  | .wdib => s.Admitted ∧ s.FileAllocated
  | .xpix => s.Admitted ∧ s.FileAllocated ∧ s.CountersNamePixel
  | .ret => s.Admitted ∧ s.FileAllocated
  | .done => s.err = .none ∧ s.FileHandedOver
  | .error => (s.err ≠ .none ∧ s.err ≠ .outOfMemory) ∧ s.outlen = 0
  | .halt => s.err = .outOfMemory ∧ s.outlen = 0

/-- The invariant read off the phase. -/
theorem State.Inv.phaseFacts {s : State} {q : Phase} (h : s.Inv) (hq : s.phase = q) : s.PhaseFacts q := by
  obtain ⟨-, -, -, herr, hhalt, hlen, hdone, hdim, hgeom, hbuf, halloc, hctr⟩ := h
  rw [hq] at herr hhalt hlen hdone hdim hgeom hbuf halloc hctr
  have hnone (hb : ¬ (q = .error ∨ q = .halt)) : s.err = .none := not_not.1 (mt herr.1 hb)
  have hquiet (hb : ¬ (q = .error ∨ q = .halt)) (hd : q ≠ .done) : s.Quiet := ⟨hnone hb, hlen hd⟩
  have hadmitted (hb : ¬ (q = .error ∨ q = .halt)) (hd : q ≠ .done) (hc : q.pastChklen = true)
      (hg : q.pastGeom = true) (hr : q.pastChkdim = true) : s.Admitted := ⟨hquiet hb hd, hdim hr, hgeom hg, hbuf hc⟩
  cases q with
  | idle | chkdim => exact hquiet (by decide) (by decide)
  | geom => exact ⟨hquiet (by decide) (by decide), hdim rfl⟩
  | chklen => exact ⟨hquiet (by decide) (by decide), hdim rfl, hgeom rfl⟩
  | alloc => exact hadmitted (by decide) (by decide) rfl rfl rfl
  | wfh | wdib | ret => exact ⟨hadmitted (by decide) (by decide) rfl rfl rfl, halloc rfl⟩
  | xpix => exact ⟨hadmitted (by decide) (by decide) rfl rfl rfl, halloc rfl, hctr rfl⟩
  | done => exact ⟨hnone (by decide), hdone rfl⟩
  | error => exact ⟨⟨herr.2 (.inl rfl), mt hhalt.1 (by decide)⟩, hlen (by decide)⟩
  | halt => exact ⟨hhalt.2 rfl, hlen (by decide)⟩

theorem State.Inv.memories {s : State} (h : s.Inv) : s.MemoriesInv :=
  ⟨h.pixCanonical, h.outCanonical, h.outInside⟩

section
variable {s : State} {q : Phase} (h : s.PhaseFacts q)
include h

theorem State.PhaseFacts.allocated (hq : q.pastAlloc = true) : s.Admitted ∧ s.FileAllocated := by
  cases q with
  | wfh | wdib | ret => exact h
  | xpix => exact ⟨h.1, h.2.1⟩
  | _ => cases hq

theorem State.PhaseFacts.admitted (hq : q.pastChklen = true) : s.Admitted := by
  cases q with
  | alloc => exact h
  | wfh | wdib | xpix | ret => exact h.1
  | _ => cases hq

theorem State.PhaseFacts.geometry (hq : q.pastGeom = true) : s.DimensionsInRange ∧ s.GeometryExact := by
  cases q with
  | chklen => exact h.2
  | alloc => exact ⟨h.dimensions, h.geometry⟩
  | wfh | wdib | xpix | ret => exact ⟨h.1.dimensions, h.1.geometry⟩
  | _ => cases hq

theorem State.PhaseFacts.dimensions (hq : q.pastChkdim = true) : s.DimensionsInRange := by
  cases q with
  | geom => exact h.2
  | chklen => exact h.2.1
  | alloc => exact h.dimensions
  | wfh | wdib | xpix | ret => exact h.1.dimensions
  | _ => cases hq

theorem State.PhaseFacts.err_ne_none_iff : s.err ≠ .none ↔ q = .error ∨ q = .halt := by
  cases q with
  | idle | chkdim => simp [h.1]
  | geom | chklen => simp [h.1.1]
  | alloc => simp [h.quiet.1]
  | wfh | wdib | xpix | ret => simp [h.1.quiet.1]
  | done => simp [h.1]
  | error => simp [h.1.1]
  | halt => simp [h.1]

theorem State.PhaseFacts.err_eq_outOfMemory_iff : s.err = .outOfMemory ↔ q = .halt := by
  cases q with
  | idle | chkdim => simp [h.1]
  | geom | chklen => simp [h.1.1]
  | alloc => simp [h.quiet.1]
  | wfh | wdib | xpix | ret => simp [h.1.quiet.1]
  | done => simp [h.1]
  | error => simp [h.1.2]
  | halt => simp [h.1]

theorem State.PhaseFacts.outlen_eq_zero (hq : q ≠ .done) : s.outlen = 0 := by
  cases q with
  | idle | chkdim | error | halt => exact h.2
  | geom | chklen => exact h.1.2
  | alloc => exact h.quiet.2
  | wfh | wdib | xpix | ret => exact h.1.quiet.2
  | done => exact absurd rfl hq

end

/-- The invariant put together again. -/
theorem State.PhaseFacts.inv {s : State} {q : Phase} (hq : s.phase = q) (hm : s.MemoriesInv) (h : s.PhaseFacts q) :
    s.Inv := by
  subst hq
  obtain ⟨hpix, hout, hin⟩ := hm
  refine ⟨hpix, hout, hin, h.err_ne_none_iff, h.err_eq_outOfMemory_iff, h.outlen_eq_zero,
    fun hd => ?done, h.dimensions, fun hg => (h.geometry hg).2, fun hc => (h.admitted hc).buffer,
    fun ha => (h.allocated ha).2, fun hx => ?xpix⟩
  case done =>
    rw [hd] at h
    exact h.2
  case xpix =>
    rw [hx] at h
    exact h.2.2

/-! ### The memories -/

/-- Stores inside OUT_CAP keep the memories as the invariant wants them. -/
theorem State.MemoriesInv.writeFields {s : State} {fs : List Field} (h : s.MemoriesInv)
    (hfs : ∀ f, f ∈ fs → f.addr + f.size ≤ s.outCap) : (s.withOut (Memory.writeFields s.out fs)).MemoriesInv := by
  obtain ⟨hpix, hout, hin⟩ := h
  refine ⟨hpix, Memory.wf_writeFields hout fs, fun c hc => ?_⟩
  obtain ⟨f, hf, _, hlt⟩ | hc := Memory.mem_writeFields hc
  · exact hlt.trans_le (hfs f hf)
  · exact hin c hc

theorem State.MemoriesInv.advance {s : State} (h : s.MemoriesInv) : (advance s).MemoriesInv := by
  obtain ⟨_, e⟩ | ⟨_, _, e⟩ | ⟨_, _, e⟩ := advance_cases s <;> rw [e] <;> exact h

theorem State.MemoriesInv.zeroFill {s : State} {n : Nat} (h : s.MemoriesInv) (hn : n ≤ s.outCap) :
    (s.withOut (Memory.zeroFill s.out n)).MemoriesInv := by
  obtain ⟨hpix, hout, hin⟩ := h
  refine ⟨hpix, Memory.wf_zeroFill hout n, fun c hc => ?_⟩
  obtain hlt | hc := Memory.mem_zeroFill hc
  · exact hlt.trans_le hn
  · exact hin c hc

/-- Stores leave every byte of the file with a value. -/
theorem State.FileAllocated.writeFields {s : State} (fs : List Field) (h : s.FileAllocated) :
    (s.withOut (Memory.writeFields s.out fs)).FileAllocated :=
  ⟨h.1, fun a ha => Memory.isSome_writeFields fs (h.2 a ha)⟩

/-- Every operation keeps the memories as the invariant wants them. WFH's and WDIB's writes are generalized before two
records are compared, or Lean evaluates them. -/
theorem State.MemoriesInv.exec {i : Instr} {s t : State} (hm : s.MemoriesInv) (h : exec i s = .next t) :
    t.MemoriesInv := by
  cases i with
  | encode => obtain ⟨_, rfl⟩ | ⟨_, rfl⟩ := execEncode_next h <;> exact hm
  | chkdim => obtain rfl | ⟨_, _, _, _, rfl⟩ := execChkdim_next h <;> exact hm
  | geom => obtain rfl | ⟨_, _, _, _, rfl⟩ := execGeom_next h <;> exact hm
  | chklen => obtain rfl | ⟨_, rfl⟩ := execChklen_next h <;> exact hm
  | alloc =>
    obtain rfl | ⟨hfits, rfl⟩ := execAlloc_next h
    · exact hm
    · exact hm.zeroFill hfits
  | wfh =>
    obtain ⟨hin, rfl⟩ := execWfh_next h
    have hm' := hm.writeFields hin
    generalize Memory.writeFields _ _ = m at hm' ⊢
    exact hm'
  | wdib =>
    obtain ⟨hin, n, vy, -, rfl⟩ := execWdib_next h
    have hm' := hm.writeFields hin
    generalize Memory.writeFields _ _ = m at hm' ⊢
    exact hm'
  | xpix =>
    obtain ⟨w, -, -, hin, rfl⟩ := execXpix_next h
    refine State.MemoriesInv.advance (hm.writeFields fun f hf => ?_)
    simp only [pixelFields, List.mem_cons, List.not_mem_nil, or_false] at hf
    obtain rfl | rfl | rfl := hf <;> simp only <;> omega
  | ret =>
    obtain rfl := execRet_next h
    exact hm

/-! ### The operations: what holds in a phase gives what holds in the next -/

section
variable {s t : State}

/-- raise, with no output handed over (R215). -/
theorem State.raise_facts (e : TypedError) (hq : s.Quiet) : (s.raise e).PhaseFacts .error := by
  have hcode : e.errCode ≠ .none ∧ e.errCode ≠ .outOfMemory := by cases e <;> decide
  exact ⟨hcode, hq.2⟩

theorem execChkdim_facts (hf : s.PhaseFacts .chkdim) (h : execChkdim s = .next t) : t.PhaseFacts t.phase := by
  obtain rfl | ⟨hw1, hw, hh1, hh, rfl⟩ := execChkdim_next h
  · exact s.raise_facts _ hf
  · exact ⟨hf, hw1, hw, hh1, hh⟩

/-- A register takes a number that fits as it is. -/
theorem toNat_ofNat_of_lt {v : Nat} (h : v < 2 ^ 32) : (BitVec.ofNat 32 v).toNat = v :=
  (BitVec.toNat_ofNat _ _).trans (Nat.mod_eq_of_lt h)

theorem execGeom_facts (hf : s.PhaseFacts .geom) (h : execGeom s = .next t) : t.PhaseFacts t.phase := by
  obtain ⟨hquiet, hdim⟩ := hf
  obtain rfl | ⟨hfits, n, st, hst, rfl⟩ := execGeom_next h
  · exact s.raise_facts _ hquiet
  · have ⟨_, _, hh1, _⟩ := hdim
    have hrow := strideOf_le_pixelArraySizeOf s.width.toNat (h := s.height.toNat) (by omega)
    have hlen := fileLengthOf_eq s.width.toNat s.height.toNat
    have hmax : fileLengthOf s.width.toNat s.height.toNat ≤ 4294967295 := hfits
    obtain rfl := hst (by omega)
    refine ⟨hquiet, hdim, ?_, ?_, ?_⟩
    all_goals exact toNat_ofNat_of_lt (by omega)

theorem execChklen_facts (hf : s.PhaseFacts .chklen) (h : execChklen s = .next t) : t.PhaseFacts t.phase := by
  obtain ⟨hquiet, hdim, hgeom⟩ := hf
  obtain rfl | ⟨hbuf, rfl⟩ := execChklen_next h
  · exact s.raise_facts _ hquiet
  · exact ⟨hquiet, hdim, hgeom, hbuf⟩

theorem execAlloc_facts (hf : s.PhaseFacts .alloc) (h : execAlloc s = .next t) : t.PhaseFacts t.phase := by
  obtain rfl | ⟨hfits, rfl⟩ := execAlloc_next h
  · exact ⟨rfl, hf.quiet.2⟩
  · refine ⟨hf, hfits, fun a (ha : a < s.flen.toNat) => ?_⟩
    rw [State.out_withPhase, State.out_withOut, Memory.read_zeroFill, if_pos ha]
    rfl

theorem execWfh_facts (hf : s.PhaseFacts .wfh) (h : execWfh s = .next t) : t.PhaseFacts t.phase := by
  obtain ⟨hadm, halloc⟩ := hf
  obtain ⟨-, rfl⟩ := execWfh_next h
  have halloc' := halloc.writeFields (fileHeaderFields s.flen.toNat)
  generalize Memory.writeFields _ _ = m at halloc' ⊢
  exact ⟨hadm, halloc'⟩

theorem execWdib_facts (hf : s.PhaseFacts .wdib) (h : execWdib s = .next t) : t.PhaseFacts t.phase := by
  obtain ⟨hadm, halloc⟩ := hf
  obtain ⟨hw1, -, hh1, -⟩ := hadm.dimensions
  obtain ⟨-, n, vy, hy, rfl⟩ := execWdib_next h
  have hy := hy (by omega)
  have halloc' := halloc.writeFields (dibHeaderFields s.width.toNat s.height.toNat s.pasize.toNat)
  generalize Memory.writeFields _ _ = m at halloc' ⊢
  refine ⟨hadm, halloc', ?_, hw1, ?_⟩
  · show vy.toNat < s.height.toNat
    omega
  · show 0 = (s.height.toNat - 1 - vy.toNat) * s.width.toNat + 0
    rw [hy, Nat.sub_self, Nat.zero_mul]

/-- The advance keeps the counters on the pixel whose index is P, or ends the loop (R172, R174). -/
theorem advance_facts (hq : s.phase = .xpix) (hf : s.PhaseFacts .xpix) (hp : s.p.toNat < s.pixlen.toNat) :
    (advance s).PhaseFacts (advance s).phase := by
  obtain ⟨hadm, halloc, hy, hx, hidx⟩ := hf
  have hp1 := toNat_add_one_of_lt hp
  obtain ⟨hlt, h⟩ | ⟨hle, hy0, h⟩ | ⟨-, -, h⟩ := advance_cases s <;> rw [h]
  · have hx1 := toNat_add_one_of_lt (v := s.x) (u := s.width) hx
    rw [hq]
    refine ⟨hadm, halloc, hy, hx1.trans_lt hlt, ?_⟩
    simp only [hp1, hx1, hidx]
    omega
  · have hy1 : (s.y - 1).toNat = s.y.toNat - 1 := toNat_sub_one_of_ne (BitVec.toNat_ne.2 (by simpa using hy0.ne'))
    rw [hq]
    refine ⟨hadm, halloc, hy1.trans_lt (Nat.sub_lt_of_lt hy), Nat.zero_lt_of_lt hx, ?_⟩
    have hrow := pixelIndex_next_row (w := s.width.toNat) hy0 hy
    simp only [hp1, hy1, hidx, hrow]
    show _ = _ + 0
    omega
  · exact ⟨hadm, halloc⟩

theorem execXpix_facts (hq : s.phase = .xpix) (hf : s.PhaseFacts .xpix) (h : execXpix s = .next t) :
    t.PhaseFacts t.phase := by
  obtain ⟨hadm, halloc, hctr⟩ := hf
  obtain ⟨w, hp, -, -, rfl⟩ := execXpix_next h
  exact advance_facts hq ⟨hadm, halloc.writeFields _, hctr⟩ hp

/-- A file has its headers and at least one row of at least four bytes (R200). -/
theorem fileLengthOf_bounds {w h : Nat} (hw : 1 ≤ w) (hh : 1 ≤ h) :
    58 ≤ fileLengthOf w h ∧ fileLengthOf w h % 4 = 2 := by
  have hrow := strideOf_le_pixelArraySizeOf w (h := h) (by omega)
  have hst := three_mul_le_strideOf w
  have hmod := strideOf_mod_four w
  have harr : pixelArraySizeOf w h % 4 = 0 := by rw [pixelArraySizeOf, Nat.mul_mod, hmod, Nat.zero_mul]
  rw [fileLengthOf_eq]
  omega

theorem execRet_facts (hf : s.PhaseFacts .ret) (h : execRet s = .next t) : t.PhaseFacts t.phase := by
  obtain ⟨hadm, -, halloc⟩ := hf
  obtain ⟨hw1, -, hh1, -⟩ := hadm.dimensions
  obtain ⟨-, -, hflen⟩ := hadm.geometry
  obtain ⟨hmin, hmod⟩ := fileLengthOf_bounds hw1 hh1
  obtain rfl := execRet_next h
  rw [← hflen] at hmin hmod
  exact ⟨hadm.quiet.1, rfl, hmin, hmod, halloc⟩

/-- The operation that PHASE selects leads from what holds in its phase to what holds in the next. -/
theorem exec_facts {i : Instr} (hi : decode (.phase s.phase.code) = .ok i) (hf : s.PhaseFacts s.phase)
    (h : exec i s = .next t) : t.PhaseFacts t.phase := by
  obtain ⟨hp, rfl⟩ | ⟨hp, rfl⟩ | ⟨hp, rfl⟩ | ⟨hp, rfl⟩ | ⟨hp, rfl⟩ | ⟨hp, rfl⟩ | ⟨hp, rfl⟩ | ⟨hp, rfl⟩ :=
    phase_of_decodes hi <;> rw [hp] at hf
  · exact execChkdim_facts hf h
  · exact execGeom_facts hf h
  · exact execChklen_facts hf h
  · exact execAlloc_facts hf h
  · exact execWfh_facts hf h
  · exact execWdib_facts hf h
  · exact execXpix_facts hp hf h
  · exact execRet_facts hf h

end

/-- A micro-operation in its phase keeps the invariant. -/
theorem State.Inv.exec {i : Instr} {s t : State} (hs : s.Inv) (hi : decode (.phase s.phase.code) = .ok i)
    (h : exec i s = .next t) : t.Inv :=
  State.PhaseFacts.inv rfl (hs.memories.exec h) (exec_facts hi (hs.phaseFacts rfl) h)

/-! ### START, HOST's own actions, reset -/

theorem State.start_inv {s : State} (hm : s.MemoriesInv) : s.start.Inv :=
  State.PhaseFacts.inv (q := .chkdim) rfl hm ⟨rfl, rfl⟩

/-- In IDLE with nothing in the memories the invariant asks for no output and no error. -/
theorem State.inv_of_empty {s : State} (hq : s.phase = .idle) (hquiet : s.Quiet) (hpix : s.pix = []) (hout : s.out = []) :
    s.Inv := by
  refine State.PhaseFacts.inv hq ⟨?_, ?_, ?_⟩ hquiet
  · rw [hpix]
    exact List.Pairwise.nil
  · rw [hout]
    exact List.Pairwise.nil
  · rw [hout]
    exact nofun

theorem State.applyRst_inv (s : State) : s.applyRst.Inv :=
  State.inv_of_empty rfl ⟨rfl, rfl⟩ rfl rfl

/-- HOST's own actions keep the invariant: where it speaks of the operands, HOST cannot write them (R245). -/
theorem HostEffect.inv {u t : State} (h : HostEffect u t) (hu : u.Inv) : t.Inv := by
  have hm := hu.memories
  have hf := hu.phaseFacts rfl
  obtain rfl | ⟨hi, v, ht⟩ | ⟨_, i, w, rfl⟩ | ⟨q, rfl⟩ := h
  · exact hu
  · obtain hp | hp | hp := u.phase.hostIdle_iff.1 hi <;> rw [hp] at hf <;> obtain rfl | rfl | rfl := ht <;>
      exact State.PhaseFacts.inv hp hm hf
  · exact { hu with pixCanonical := Memory.wf_writeLE hu.pixCanonical _ _ _ }
  · exact { hu with }

theorem State.Inv.withAgenda {s : State} (h : s.Inv) (l : List HostAction) : (s.withAgenda l).Inv := { h with }

/-! ### The obligation -/

/-- Settles O34: a micro-operation in its phase, an accepted START, HOST's own effects and reset each keep the invariant. -/
theorem stepKeepsTheControlInvariant : Obligations.StepKeepsTheControlInvariant := by
  intro s t hs hstep
  obtain ⟨i, l, hi, h⟩ | ⟨l, -, rfl⟩ | ⟨l, h⟩ | ⟨l, -, rfl⟩ := step_next_cases hstep
  · exact (hs.withAgenda l).exec hi h
  · exact State.start_inv (s := s.withAgenda l) hs.memories
  · exact h.inv (hs.withAgenda l)
  · exact (s.withAgenda l).applyRst_inv

end Sys2Proof.Machine
end

section
/-! Where PHASE can go (R32). -/

namespace Sys2Proof.Machine

section
variable {s t : State}

theorem execChkdim_phase (h : execChkdim s = .next t) : t.phase = .error ∨ t.phase = .geom := by
  obtain rfl | ⟨_, _, _, _, rfl⟩ := execChkdim_next h
  · exact .inl rfl
  · exact .inr rfl

theorem execGeom_phase (h : execGeom s = .next t) : t.phase = .error ∨ t.phase = .chklen := by
  obtain rfl | ⟨_, _, _, _, rfl⟩ := execGeom_next h
  · exact .inl rfl
  · exact .inr rfl

theorem execChklen_phase (h : execChklen s = .next t) : t.phase = .error ∨ t.phase = .alloc := by
  obtain rfl | ⟨_, rfl⟩ := execChklen_next h
  · exact .inl rfl
  · exact .inr rfl

theorem execAlloc_phase (h : execAlloc s = .next t) : t.phase = .halt ∨ t.phase = .wfh := by
  obtain rfl | ⟨_, rfl⟩ := execAlloc_next h
  · exact .inl rfl
  · exact .inr rfl

theorem execWfh_phase (h : execWfh s = .next t) : t.phase = .wdib := by
  obtain ⟨_, rfl⟩ := execWfh_next h
  rfl

theorem execWdib_phase (h : execWdib s = .next t) : t.phase = .xpix := by
  obtain ⟨_, _, _, _, rfl⟩ := execWdib_next h
  rfl

/-- The advance leaves OUT, the geometry and the dimensions (R172). -/
theorem advance_frame (s : State) :
    (advance s).out = s.out ∧ (advance s).flen = s.flen ∧ (advance s).pasize = s.pasize ∧
      (advance s).stride = s.stride ∧ (advance s).width = s.width ∧ (advance s).height = s.height := by
  obtain ⟨_, h⟩ | ⟨_, _, h⟩ | ⟨_, _, h⟩ := advance_cases s <;> rw [h] <;> simp

/-- XPIX stays in its phase until the last column of destination row 0 (R172). -/
theorem execXpix_phase (h : execXpix s = .next t) :
    t.phase = s.phase ∨ (t.phase = .ret ∧ s.width.toNat ≤ s.x.toNat + 1 ∧ s.y.toNat = 0) := by
  obtain ⟨w, -, -, -, rfl⟩ := execXpix_next h
  obtain ⟨-, e⟩ | ⟨-, -, e⟩ | ⟨hx, hy, e⟩ := advance_cases (s.withOut (Memory.writeFields s.out
    (pixelFields (pixelAddress s.y.toNat s.stride.toNat s.x.toNat) w))) <;> rw [e]
  · exact .inl rfl
  · exact .inl rfl
  · exact .inr ⟨rfl, hx, hy⟩

theorem execRet_phase (h : execRet s = .next t) : t.phase = .done := by
  obtain rfl := execRet_next h
  rfl

end

theorem Phase.not_hostIdle_of_pastAlloc {q : Phase} (h : q.pastAlloc = true) : q.hostIdle = false := by
  revert h
  cases q <;> decide

/-- Settles O31: each operation names its successor. -/
theorem phaseFollowsTheGraph : Obligations.PhaseFollowsTheGraph := by
  intro s t hstep
  obtain ⟨l, effect⟩ := stepEffect_of_next hstep
  rw [← State.phase_withAgenda s l]
  generalize s.withAgenda l = u at effect
  cases effect with
  | chkdim hp h => obtain ht | ht := execChkdim_phase h <;> rw [hp, ht] <;> exact .inr (.inl rfl)
  | geom hp h => obtain ht | ht := execGeom_phase h <;> rw [hp, ht] <;> exact .inr (.inl rfl)
  | chklen hp h => obtain ht | ht := execChklen_phase h <;> rw [hp, ht] <;> exact .inr (.inl rfl)
  | alloc hp h => obtain ht | ht := execAlloc_phase h <;> rw [hp, ht] <;> exact .inr (.inl rfl)
  | wfh hp h => rw [hp, execWfh_phase h]; exact .inr (.inl rfl)
  | wdib hp h => rw [hp, execWdib_phase h]; exact .inr (.inl rfl)
  | xpix hp h =>
    obtain ht | ⟨ht, -⟩ := execXpix_phase h
    · exact .inl ht
    · rw [hp, ht]; exact .inr (.inl rfl)
  | ret hp h => rw [hp, execRet_phase h]; exact .inr (.inl rfl)
  | start hp h =>
    obtain hp | hp | hp := u.phase.hostIdle_iff.1 hp <;> rw [hp, h] <;> exact .inr (.inl rfl)
  | host h =>
    obtain ⟨-, -, -, -, hphase, -⟩ := h.sameEncSide
    exact .inl hphase
  | reset ha h => exact .inr (.inr ⟨ha, by rw [h]; rfl⟩)

end Sys2Proof.Machine
end

section
/-! The header fields and the padding bytes: what every successful output has (R129, R175, R200), and that every step keeps
it. -/

namespace Sys2Proof.Machine

/-! ### Where a pixel's bytes lie -/

theorem pixelAddress_eq (y stride x : Nat) : pixelAddress y stride x = 54 + y * stride + 3 * x := rfl

/-- A pixel's byte and a row's byte at one address are the same byte of the same row (R176). -/
theorem pixelByte_eq_rowByte {w st y y' x c k : Nat} (hst : 3 * w ≤ st) (hx : x < w) (hc : c < 3) (hk : k < st)
    (h : pixelAddress y st x + c = 54 + y' * st + k) : y = y' ∧ 3 * x + c = k := by
  refine row_offset_unique (st := st) (by omega) hk ?_
  rw [pixelAddress_eq] at h
  omega

/-- Settles O40: the row and the offset in it are read off the address, the pixel and its byte off the offset. -/
theorem pixelBytesNeverCollide : Obligations.PixelBytesNeverCollide := by
  intro w y x c y' x' c' hx hx' hc hc' h
  have hst := three_mul_le_strideOf w
  obtain ⟨hy, hoff⟩ := pixelByte_eq_rowByte (y' := y') (k := 3 * x' + c') hst hx hc (by omega)
    (h.trans (Nat.add_assoc _ _ _))
  exact ⟨hy, by omega, by omega⟩

/-- An address that holds none of the pixel's three bytes keeps its byte. -/
theorem Memory.read_writePixel_of_ne (m : Memory) {d a : Nat} (w : Word) (h : ∀ c, c < 3 → a ≠ d + c) :
    Memory.read (Memory.writeFields m (pixelFields d w)) a = Memory.read m a := by
  have h0 : a ≠ d := h 0 (by decide)
  rw [Memory.read_writePixel, if_neg h0, if_neg (h 1 (by decide)), if_neg (h 2 (by decide))]

/-- XPIX leaves every byte but those of the pixel its counters name (R171). -/
theorem execXpix_read_of_ne {s t : State} {a : Nat} (h : execXpix s = .next t)
    (ha : ∀ c, c < 3 → a ≠ pixelAddress s.y.toNat s.stride.toNat s.x.toNat + c) :
    Memory.read t.out a = Memory.read s.out a := by
  obtain ⟨w, -, -, -, rfl⟩ := execXpix_next h
  obtain ⟨hout, -⟩ := advance_frame (s.withOut (Memory.writeFields s.out
    (pixelFields (pixelAddress s.y.toNat s.stride.toNat s.x.toNat) w)))
  rw [hout, State.out_withOut, Memory.read_writePixel_of_ne _ _ ha]

/-- Settles O39: the pixel's bytes lie in the first 3 * WIDTH bytes of their row, the padding after them. -/
theorem xpixNeverWritesPadding : Obligations.XpixNeverWritesPadding := by
  intro s t y k hs hq h hk hk'
  obtain ⟨hadm, -, -, hx, -⟩ := hs.phaseFacts hq
  obtain ⟨hst, -, -⟩ := hadm.geometry
  refine execXpix_read_of_ne h fun c hc heq => ?_
  have hrow := three_mul_le_strideOf s.width.toNat
  obtain ⟨-, hoff⟩ := pixelByte_eq_rowByte (w := s.width.toNat) (by omega) hx hc hk' heq.symm
  omega

/-! ### The header fields (R200) -/

/-- The header fields carry over to a state whose phase asks for no more of them. -/
theorem State.HeaderInv.of_read_eq {s t : State} (h : s.HeaderInv)
    (hread : ∀ a, a < 54 → Memory.read t.out a = Memory.read s.out a) (hflen : t.flen = s.flen)
    (hpasize : t.pasize = s.pasize) (hwfh : t.phase.pastWfh = true → s.phase.pastWfh = true)
    (hwdib : t.phase.pastWdib = true → s.phase.pastWdib = true) : t.HeaderInv := by
  have hnum (a n : Nat) (ha : a + n ≤ 54) : Memory.readLE t.out a n = Memory.readLE s.out a n :=
    Memory.readLE_congr fun b _ hb => hread b (by omega)
  refine ⟨fun hq => ?_, fun hq => ?_⟩
  · rw [hread 0 (by decide), hread 1 (by decide), hnum 2 4 (by decide), hnum 10 4 (by decide), hflen]
    exact h.fileHeader (hwfh hq)
  · rw [hnum 14 4 (by decide), hnum 34 4 (by decide), hflen, hpasize]
    exact h.dibHeader (hwdib hq)

theorem Phase.pastWfh_of_pastWdib {q : Phase} (h : q.pastWdib = true) : q.pastWfh = true := by
  revert h
  cases q <;> decide

/-- Before the headers are written there is nothing to say of them. -/
theorem State.HeaderInv.of_not_pastWfh {t : State} (h : t.phase.pastWfh = false) : t.HeaderInv := by
  have hne : t.phase.pastWfh ≠ true := by simp [h]
  exact ⟨fun hq => absurd hq hne, fun hq => absurd (Phase.pastWfh_of_pastWdib hq) hne⟩

theorem AdjacentFrom.le_addr {a : Nat} {f : Field} {fs : List Field} (h : AdjacentFrom a fs) (hf : f ∈ fs) :
    a ≤ f.addr := by
  induction fs generalizing a with
  | nil => cases hf
  | cons g fs ih =>
    obtain ⟨rfl, hfs⟩ := h
    obtain rfl | hf := List.mem_cons.1 hf
    · exact Nat.le_refl _
    · exact Nat.le_trans (Nat.le_add_right _ _) (ih hfs hf)

/-- Each of a list of adjacent fields is read back as the number it stored (R66). -/
theorem Memory.readLE_writeFields_of_adjacent (m : Memory) {a : Nat} {f : Field} {fs : List Field}
    (h : AdjacentFrom a fs) (hf : f ∈ fs) :
    Memory.readLE (Memory.writeFields m fs) f.addr f.size = some (f.value % 256 ^ f.size) := by
  induction fs generalizing m a with
  | nil => cases hf
  | cons g fs ih =>
    obtain ⟨rfl, hfs⟩ := h
    obtain rfl | hf := List.mem_cons.1 hf
    · rw [← Memory.readLE_writeLE m f.addr f.size f.value]
      refine Memory.readLE_congr fun b _ hb => Memory.read_writeFields_of_outside _ fs b fun g hg => ?_
      exact .inl (hb.trans_le (hfs.le_addr hg))
    · exact ih _ hfs hf

/-- WFH establishes its part (R141 to R144). -/
theorem execWfh_headerInv {s t : State} (h : execWfh s = .next t) : t.HeaderInv := by
  obtain ⟨-, rfl⟩ := execWfh_next h
  have hread := Memory.read_writeFileHeader s.out s.flen.toNat
  have hnum (f : Field) (hf : f ∈ fileHeaderFields s.flen.toNat) :=
    Memory.readLE_writeFields_of_adjacent s.out (adjacentFrom_fileHeaderFields s.flen.toNat) hf
  have hflen := hnum ⟨2, 4, s.flen.toNat⟩ (by simp [fileHeaderFields])
  have hoffset := hnum ⟨10, 4, 54⟩ (by simp [fileHeaderFields, Config.pixelDataOffset, Config.fileHeaderLength,
    Config.dibHeaderLength])
  generalize Memory.writeFields s.out (fileHeaderFields s.flen.toNat) = o at hread hflen hoffset ⊢
  refine ⟨fun _ => ⟨hread 0, hread 1, ?_, hoffset⟩, nofun⟩
  exact hflen.trans (congrArg some (Nat.mod_eq_of_lt s.flen.isLt))

/-- WDIB establishes its part and leaves that of WFH (R147, R153). -/
theorem execWdib_headerInv {s t : State} (hq : s.phase = .wdib) (hs : s.Inv) (hh : s.HeaderInv)
    (h : execWdib s = .next t) : t.HeaderInv := by
  obtain ⟨hadm, -⟩ := hs.phaseFacts hq
  obtain ⟨-, hpa, hfl⟩ := hadm.geometry
  obtain ⟨-, n, vy, -, rfl⟩ := execWdib_next h
  have hread := Memory.read_writeDibHeader s.out s.width.toNat s.height.toNat s.pasize.toNat
  have hnum (f : Field) (hf : f ∈ dibHeaderFields s.width.toNat s.height.toNat s.pasize.toNat) :=
    Memory.readLE_writeFields_of_adjacent s.out (adjacentFrom_dibHeaderFields _ _ s.pasize.toNat) hf
  have hsize := hnum ⟨14, 4, 40⟩ (by simp [dibHeaderFields, Config.dibHeaderLength])
  have hpasize := hnum ⟨34, 4, s.pasize.toNat⟩ (by simp [dibHeaderFields])
  generalize Memory.writeFields s.out (dibHeaderFields s.width.toNat s.height.toNat s.pasize.toNat) = o
    at hread hsize hpasize ⊢
  have hlow (a : Nat) (ha : a < 14) : Memory.read o a = Memory.read s.out a := by
    rw [hread, if_neg (by omega)]
  have hlowNum (a : Nat) (ha : a + 4 ≤ 14) : Memory.readLE o a 4 = Memory.readLE s.out a 4 :=
    Memory.readLE_congr fun b _ hb => hlow b (by omega)
  obtain ⟨h0, h1, h2, h10⟩ := hh.fileHeader (by rw [hq]; rfl)
  refine ⟨fun _ => ⟨(hlow 0 (by decide)).trans h0, (hlow 1 (by decide)).trans h1, (hlowNum 2 (by decide)).trans h2,
    (hlowNum 10 (by decide)).trans h10⟩, fun _ => ⟨hsize, ?_, ?_⟩⟩
  · exact hpasize.trans (congrArg some (Nat.mod_eq_of_lt s.pasize.isLt))
  · exact hfl.trans ((fileLengthOf_eq _ _).trans (congrArg _ hpa.symm))

/-- XPIX writes from address 54 on (R171), so it leaves both headers. -/
theorem execXpix_headerInv {s t : State} (hq : s.phase = .xpix) (hh : s.HeaderInv) (h : execXpix s = .next t) :
    t.HeaderInv := by
  have hread (a : Nat) (ha : a < 54) : Memory.read t.out a = Memory.read s.out a :=
    execXpix_read_of_ne h fun c _ => by rw [pixelAddress_eq]; omega
  obtain ⟨w, -, -, -, rfl⟩ := execXpix_next h
  obtain ⟨-, hfl, hpa, -⟩ := advance_frame (s.withOut (Memory.writeFields s.out
    (pixelFields (pixelAddress s.y.toNat s.stride.toNat s.x.toNat) w)))
  exact hh.of_read_eq hread hfl hpa (fun _ => by rw [hq]; rfl) (fun _ => by rw [hq]; rfl)

/-- HOST's own actions touch nothing the header fields stand in. -/
theorem HostEffect.headerInv {u t : State} (h : HostEffect u t) (hu : u.HeaderInv) : t.HeaderInv := by
  obtain ⟨hout, -, hpasize, hflen, hphase, -⟩ := h.sameEncSide
  exact hu.of_read_eq (fun a _ => by rw [hout]) hflen hpasize (by rw [hphase]; exact id) (by rw [hphase]; exact id)

/-- Settles O35: WFH and WDIB establish their fields, XPIX, RET and HOST leave them, and every other effect leads to a phase
that asks for none. -/
theorem stepKeepsTheHeaderInvariant : Obligations.StepKeepsTheHeaderInvariant := by
  intro s t hs hh hstep
  obtain ⟨l, effect⟩ := stepEffect_of_next hstep
  have hu := hs.withAgenda l
  have hhu : (s.withAgenda l).HeaderInv := ⟨hh.fileHeader, hh.dibHeader⟩
  generalize s.withAgenda l = u at hu hhu effect
  cases effect with
  | chkdim hp h => obtain ht | ht := execChkdim_phase h <;> exact .of_not_pastWfh (by rw [ht]; rfl)
  | geom hp h => obtain ht | ht := execGeom_phase h <;> exact .of_not_pastWfh (by rw [ht]; rfl)
  | chklen hp h => obtain ht | ht := execChklen_phase h <;> exact .of_not_pastWfh (by rw [ht]; rfl)
  | alloc hp h => obtain ht | ht := execAlloc_phase h <;> exact .of_not_pastWfh (by rw [ht]; rfl)
  | wfh hp h => exact execWfh_headerInv h
  | wdib hp h => exact execWdib_headerInv hp hu hhu h
  | xpix hp h => exact execXpix_headerInv hp hhu h
  | ret hp h =>
    obtain rfl := execRet_next h
    exact hhu.of_read_eq (fun _ _ => rfl) rfl rfl (fun _ => by rw [hp]; rfl) (fun _ => by rw [hp]; rfl)
  | start hp h => exact .of_not_pastWfh (by rw [h]; rfl)
  | host h => exact h.headerInv hhu
  | reset ha h => exact .of_not_pastWfh (by rw [h]; rfl)

/-! ### The padding (R129, R175) -/

/-- The padding carries over to a state of the same geometry whose padding bytes read as before. -/
theorem State.PaddingInv.of_read_eq {s t : State} (h : s.PaddingInv) (hq : s.phase.pastAlloc = true)
    (hw : t.width = s.width) (hh : t.height = s.height) (hst : t.stride = s.stride)
    (hread : ∀ y k, 3 * s.width.toNat ≤ k → k < s.stride.toNat →
      Memory.read t.out (54 + y * s.stride.toNat + k) = Memory.read s.out (54 + y * s.stride.toNat + k)) :
    t.PaddingInv := by
  intro _ y k hy hk hk'
  rw [hw] at hk
  rw [hh] at hy
  rw [hst] at hk' ⊢
  exact (hread y k hk hk').trans (h hq y k hy hk hk')

theorem State.PaddingInv.of_not_pastAlloc {t : State} (h : t.phase.pastAlloc = false) : t.PaddingInv :=
  fun hq => absurd hq (by simp [h])

/-- ALLOC zeroes every padding byte, since each row ends inside the file (R128, R129). -/
theorem execAlloc_paddingInv {s t : State} (hq : s.phase = .alloc) (hs : s.Inv) (h : execAlloc s = .next t) :
    t.PaddingInv := by
  have hadm : s.Admitted := hs.phaseFacts hq
  obtain ⟨hst, -, hfl⟩ := hadm.geometry
  obtain rfl | ⟨-, rfl⟩ := execAlloc_next h
  · exact .of_not_pastAlloc rfl
  · intro _ y k (hy : y < s.height.toNat) _ (hk : k < s.stride.toNat)
    have hend := row_end_le (st := s.stride.toNat) hy
    have hin : 54 + y * s.stride.toNat + k < s.flen.toNat := by
      rw [hfl, fileLengthOf_eq, pixelArraySizeOf, ← hst]
      omega
    exact (Memory.read_zeroFill _ _ _).trans (if_pos hin)

/-- Settles O36: ALLOC zeroes the padding, WFH and WDIB write below address 54, XPIX writes no padding byte, and every other
effect leads out of the phases or leaves OUT and the geometry. -/
theorem stepKeepsThePaddingZero : Obligations.StepKeepsThePaddingZero := by
  intro s t hs hpad hstep
  obtain ⟨l, effect⟩ := stepEffect_of_next hstep
  have hu := hs.withAgenda l
  have hpu : (s.withAgenda l).PaddingInv := hpad
  generalize s.withAgenda l = u at hu hpu effect
  cases effect with
  | chkdim hp h => obtain ht | ht := execChkdim_phase h <;> exact .of_not_pastAlloc (by rw [ht]; rfl)
  | geom hp h => obtain ht | ht := execGeom_phase h <;> exact .of_not_pastAlloc (by rw [ht]; rfl)
  | chklen hp h => obtain ht | ht := execChklen_phase h <;> exact .of_not_pastAlloc (by rw [ht]; rfl)
  | alloc hp h => exact execAlloc_paddingInv hp hu h
  | wfh hp h =>
    obtain ⟨-, rfl⟩ := execWfh_next h
    have hread := Memory.read_writeFileHeader u.out u.flen.toNat
    generalize Memory.writeFields u.out (fileHeaderFields u.flen.toNat) = o at hread ⊢
    refine hpu.of_read_eq (by rw [hp]; rfl) rfl rfl rfl fun y k _ _ => (hread _).trans (if_neg (by omega))
  | wdib hp h =>
    obtain ⟨-, n, vy, -, rfl⟩ := execWdib_next h
    have hread := Memory.read_writeDibHeader u.out u.width.toNat u.height.toNat u.pasize.toNat
    generalize Memory.writeFields u.out (dibHeaderFields u.width.toNat u.height.toNat u.pasize.toNat) = o at hread ⊢
    refine hpu.of_read_eq (by rw [hp]; rfl) rfl rfl rfl fun y k _ _ => (hread _).trans (if_neg (by omega))
  | xpix hp h =>
    have hread := fun y k => xpixNeverWritesPadding u t y k hu hp h
    obtain ⟨w, -, -, -, rfl⟩ := execXpix_next h
    obtain ⟨-, -, -, hst, hw, hh⟩ := advance_frame (u.withOut (Memory.writeFields u.out
      (pixelFields (pixelAddress u.y.toNat u.stride.toNat u.x.toNat) w)))
    exact hpu.of_read_eq (by rw [hp]; rfl) hw hh hst hread
  | ret hp h =>
    obtain rfl := execRet_next h
    exact .of_not_pastAlloc rfl
  | start hp h => exact .of_not_pastAlloc (by rw [h]; rfl)
  | host h =>
    obtain ⟨hout, hst, -, -, hphase, -⟩ := h.sameEncSide
    intro hq
    rw [hphase] at hq
    obtain ⟨hw, hh, -⟩ := h.operands_eq (Phase.not_hostIdle_of_pastAlloc hq)
    exact hpu.of_read_eq hq hw hh hst (fun y k _ _ => by rw [hout]) (by rwa [hphase])
  | reset ha h => exact .of_not_pastAlloc (by rw [h]; rfl)

end Sys2Proof.Machine
end

section
/-! What the invariants give: they hold at reset, every address stays in bounds (R74), and nothing stops a BUSY block
(R199, R232). -/

namespace Sys2Proof.Machine

/-- Settles O33: at reset the memories are empty, and no header or padding is due in IDLE. -/
theorem invariantsHoldAtReset : Obligations.InvariantsHoldAtReset :=
  ⟨State.inv_of_empty rfl ⟨rfl, rfl⟩ rfl rfl, .of_not_pastWfh rfl, .of_not_pastAlloc rfl⟩

/-- The last byte of a pixel of the image lies before the end of the top row's pixels. -/
theorem pixelAddress_lt {w h st y x : Nat} (hy : y < h) (hx : x < w) :
    pixelAddress y st x + 2 < 54 + (h - 1) * st + 3 * w := by
  have hrow : y * st ≤ (h - 1) * st := Nat.mul_le_mul_right st (by omega)
  rw [pixelAddress_eq]
  omega

/-- The pixels of the top row end inside the file. -/
theorem topRow_le_fileLengthOf {w h : Nat} (hh : 1 ≤ h) :
    54 + (h - 1) * strideOf w + 3 * w ≤ fileLengthOf w h := by
  have hend := row_end_le (st := strideOf w) (h := h) (y := h - 1) (by omega)
  have hst := three_mul_le_strideOf w
  rw [fileLengthOf_eq, pixelArraySizeOf]
  omega

/-- Three bytes for every pixel fit the file, so a file length of 32 bits bounds the pixel count (R74). -/
theorem pixelCount_lt {w h : Nat} (hlen : fileLengthOf w h < 2 ^ 32) : w * h < 2 ^ 31 := by
  have hrows : 3 * w * h ≤ strideOf w * h := Nat.mul_le_mul_right h (three_mul_le_strideOf w)
  rw [Nat.mul_assoc] at hrows
  rw [fileLengthOf_eq, pixelArraySizeOf] at hlen
  omega

/-- What R74 infers for the pixel that the counters name. -/
theorem State.PhaseFacts.xpix_bounds {s : State} (h : s.PhaseFacts .xpix) :
    pixelAddress s.y.toNat s.stride.toNat s.x.toNat + 2 <
      54 + (s.height.toNat - 1) * s.stride.toNat + 3 * s.width.toNat ∧
    54 + (s.height.toNat - 1) * s.stride.toNat + 3 * s.width.toNat ≤ s.flen.toNat ∧
    s.p.toNat < s.width.toNat * s.height.toNat ∧ s.p.toNat < s.pixlen.toNat := by
  obtain ⟨hadm, -, hy, hx, hp⟩ := h
  obtain ⟨hst, -, hfl⟩ := hadm.geometry
  obtain ⟨-, -, hh1, -⟩ := hadm.dimensions
  have hlt : s.p.toNat < s.width.toNat * s.height.toNat := hp.trans_lt (pixelIndex_lt hy hx)
  refine ⟨pixelAddress_lt hy hx, ?_, hlt, hlt.trans_le hadm.buffer⟩
  rw [hfl, hst]
  exact topRow_le_fileLengthOf hh1

/-- Settles O37: past GEOM from the exact geometry, in XPIX from the counters. -/
theorem addressesStayInBounds : Obligations.AddressesStayInBounds := by
  refine fun s hs => ⟨fun hq => ?_, fun hq => (hs.phaseFacts hq).xpix_bounds⟩
  obtain ⟨-, -, -, hfl⟩ := (hs.phaseFacts rfl).geometry hq
  refine ⟨?_, pixelCount_lt (hfl ▸ s.flen.isLt)⟩
  rw [hfl, fileLengthOf_eq]
  exact Nat.le_add_right _ _

/-! ### What can stop an operation -/

theorem execChkdim_answers (s : State) : ∃ t, execChkdim s = .next t := by
  unfold execChkdim
  split_ifs <;> exact ⟨_, rfl⟩

theorem execGeom_answers (s : State) : ∃ t, execGeom s = .next t := by
  unfold execGeom
  dsimp only
  split_ifs <;> exact ⟨_, rfl⟩

theorem execChklen_answers (s : State) : ∃ t, execChklen s = .next t := by
  unfold execChklen
  split_ifs <;> exact ⟨_, rfl⟩

theorem execAlloc_answers (s : State) : ∃ t, execAlloc s = .next t := by
  unfold execAlloc
  split_ifs <;> exact ⟨_, rfl⟩

/-- Once the file is allocated, its headers fit OUT. -/
theorem State.FileAllocated.headers_fit {s : State} (halloc : s.FileAllocated) (hadm : s.Admitted) : 54 ≤ s.outCap := by
  obtain ⟨-, -, hfl⟩ := hadm.geometry
  obtain ⟨hfits, -⟩ := halloc
  rw [hfl, fileLengthOf_eq] at hfits
  omega

/-- XPIX in an admitted block reads a written pixel below PIXLEN and stores inside the file. -/
theorem execXpix_answers {s : State} (hf : s.PhaseFacts .xpix) (hpix : s.PixelsWritten) : ∃ t, execXpix s = .next t := by
  obtain ⟨hlast, hfile, hp, hplen⟩ := hf.xpix_bounds
  obtain ⟨-, ⟨hfits, -⟩, -⟩ := hf
  have hw := hpix s.p.toNat hp
  rw [BitVec.ofNat_toNat, BitVec.setWidth_eq] at hw
  obtain ⟨w, hw⟩ := Option.isSome_iff_exists.1 hw
  exact ⟨_, execXpix_of_written hplen hw (by omega)⟩

/-- The operation that a BUSY phase selects takes its step (R199): only the stores and the pixel read could stop one. -/
theorem exec_of_busy {s : State} (hs : s.Inv) (hpix : s.PixelsWritten) (hbusy : s.phase.busy = true) :
    ∃ i t, decode (.phase s.phase.code) = .ok i ∧ exec i s = .next t := by
  have hf := hs.phaseFacts rfl
  cases hq : s.phase <;> rw [hq] at hbusy hf
  case chkdim =>
    obtain ⟨t, ht⟩ := execChkdim_answers s
    exact ⟨.chkdim, t, rfl, ht⟩
  case geom =>
    obtain ⟨t, ht⟩ := execGeom_answers s
    exact ⟨.geom, t, rfl, ht⟩
  case chklen =>
    obtain ⟨t, ht⟩ := execChklen_answers s
    exact ⟨.chklen, t, rfl, ht⟩
  case alloc =>
    obtain ⟨t, ht⟩ := execAlloc_answers s
    exact ⟨.alloc, t, rfl, ht⟩
  case wfh =>
    obtain ⟨hadm, halloc⟩ := hf
    exact ⟨.wfh, _, rfl, execWfh_of_inside (by have := halloc.headers_fit hadm; omega)⟩
  case wdib =>
    obtain ⟨hadm, halloc⟩ := hf
    obtain ⟨-, -, hh1, -⟩ := hadm.dimensions
    obtain ⟨_, -, ht⟩ := execWdib_of_inside (halloc.headers_fit hadm) (by omega)
    exact ⟨.wdib, _, rfl, ht⟩
  case xpix =>
    obtain ⟨t, ht⟩ := execXpix_answers hf hpix
    exact ⟨.xpix, t, rfl, ht⟩
  case ret => exact ⟨.ret, _, rfl, rfl⟩
  case idle | done | error | halt => cases hbusy

/-- Settles O38: whoever leaves ENC the turn, the step is the operation that PHASE selects. -/
theorem nothingCanStopABusyBlock : Obligations.NothingCanStopABusyBlock := by
  intro s hs hpix hbusy hagenda
  obtain ⟨i, t, hi, ht⟩ := exec_of_busy hs hpix hbusy
  obtain ⟨hempty, hpass, hwait⟩ := stepRunsTheSelectedMicroOperation s i hi
  obtain ha | ⟨rest, ha⟩ | ⟨rest, ha⟩ := hagenda
  · exact ⟨t, (hempty ha).trans ht⟩
  · exact ⟨t.withAgenda rest, (hpass rest ha).trans (exec_withAgenda rest ht)⟩
  · exact ⟨t, (hwait rest ha).trans ht⟩

end Sys2Proof.Machine
end

section
/-! The operations at the edges of their rules: what they raise, refuse and leave, and the operands that CHKDIM rules out. -/

namespace Sys2Proof.Machine

/-- Settles O16: the stride is 3 * w and the padding of w mod 4 bytes, which is a multiple of 4 and the least above. -/
theorem strideForms : Obligations.StrideForms := by
  intro w
  have heq := strideOf_eq w
  refine ⟨?_, heq, ?_, strideOf_mod_four w, three_mul_le_strideOf w, fun n hn hle => ?_⟩
  all_goals omega

/-- Settles O22: RET's code is that of PHASE 8, and its step is its definition. -/
theorem retHandsTheBufferOver : Obligations.RetHandsTheBufferOver :=
  ⟨rfl, fun _ => rfl⟩

/-! ### Frames and errors -/

/-- Settles O29: the inversion lemma of each of the five names a next state with OUT as it was. -/
theorem outIsWrittenByFourOperationsOnly : Obligations.OutIsWrittenByFourOperationsOnly := by
  intro i s t h halloc hwfh hwdib hxpix
  cases i with
  | encode => obtain ⟨_, rfl⟩ | ⟨_, rfl⟩ := execEncode_next h <;> rfl
  | chkdim => obtain rfl | ⟨_, _, _, _, rfl⟩ := execChkdim_next h <;> rfl
  | geom => obtain rfl | ⟨_, _, _, _, rfl⟩ := execGeom_next h <;> rfl
  | chklen => obtain rfl | ⟨_, rfl⟩ := execChklen_next h <;> rfl
  | ret =>
    obtain rfl := execRet_next h
    rfl
  | alloc => exact absurd rfl halloc
  | wfh => exact absurd rfl hwfh
  | wdib => exact absurd rfl hwdib
  | xpix => exact absurd rfl hxpix

/-- An operation that brings PHASE to ERROR is a raise (R215). -/
theorem eq_raise_of_error {i : Instr} {s t : State} (h : exec i s = .next t) (hs : s.phase ≠ .error)
    (ht : t.phase = .error) : ∃ e, t = s.raise e := by
  cases i with
  | encode =>
    obtain ⟨_, rfl⟩ | ⟨_, rfl⟩ := execEncode_next h
    · cases ht
    · exact absurd ht hs
  | chkdim =>
    obtain rfl | ⟨_, _, _, _, rfl⟩ := execChkdim_next h
    · exact ⟨_, rfl⟩
    · cases ht
  | geom =>
    obtain rfl | ⟨_, _, _, _, rfl⟩ := execGeom_next h
    · exact ⟨_, rfl⟩
    · cases ht
  | chklen =>
    obtain rfl | ⟨_, rfl⟩ := execChklen_next h
    · exact ⟨_, rfl⟩
    · cases ht
  | alloc => obtain h | h := execAlloc_phase h <;> rw [h] at ht <;> cases ht
  | wfh => rw [execWfh_phase h] at ht; cases ht
  | wdib => rw [execWdib_phase h] at ht; cases ht
  | xpix =>
    obtain h | ⟨h, -⟩ := execXpix_phase h
    · exact absurd (h.symm.trans ht) hs
    · rw [h] at ht; cases ht
  | ret => rw [execRet_phase h] at ht; cases ht

/-- Settles O30: such an operation is a raise, and ERROR is a phase without a step. -/
theorem raiseWritesErrAndPhaseOnly : Obligations.RaiseWritesErrAndPhaseOnly := by
  intro i s t h hs ht
  obtain ⟨e, rfl⟩ := eq_raise_of_error h hs ht
  refine ⟨?_, rfl, step_nil_of_settled (.inr (.inr rfl))⟩
  cases e with
  | invalidDimensions => exact .inl rfl
  | bufferTooShort => exact .inr rfl

/-! ### XPIX -/

theorem advance_p (s : State) : (advance s).p = s.p + 1 := by
  obtain ⟨_, h⟩ | ⟨_, _, h⟩ | ⟨_, _, h⟩ := advance_cases s <;> rw [h]

/-- Settles O32: every branch of the advance raises P, which PIXLEN keeps from wrapping. -/
theorem xpixRaisesPByOne : Obligations.XpixRaisesPByOne := by
  intro s t h
  obtain ⟨w, hp, -, -, rfl⟩ := execXpix_next h
  rw [advance_p]
  exact toNat_add_one_of_lt hp

theorem execXpix_of_absent {s : State} {r : Refusal} (h : s.memReadPix s.p = .error r) : execXpix s = .refused r := by
  rw [execXpix, h]

theorem State.memReadPix_of_outside {s : State} {i : Word} (h : s.pixlen.toNat ≤ i.toNat) :
    s.memReadPix i = .error .pixIndexOutOfRange :=
  if_neg h.not_gt

theorem State.memReadPix_of_unwritten {s : State} {i : Word} (hi : i.toNat < s.pixlen.toNat) (h : s.pixWord i = none) :
    s.memReadPix i = .error .pixWordNeverWritten := by
  rw [State.memReadPix, if_pos hi, h]

/-- Settles O25: the two ways MemRead refuses. -/
theorem xpixRefusesAbsentPixels : Obligations.XpixRefusesAbsentPixels :=
  fun _ => ⟨fun h => execXpix_of_absent (State.memReadPix_of_outside h),
    fun hp h => execXpix_of_absent (State.memReadPix_of_unwritten hp h)⟩

/-- Settles O24: with WIDTH = 0 the row is over, so the advance is that of a row's end or of the image's end. -/
theorem widthZeroXpixEndsItsRow : Obligations.WidthZeroXpixEndsItsRow := by
  rintro s w d hw0 hp hw rfl hcap
  have hexec := execXpix_of_written hp hw hcap
  have hread := Memory.read_writePixel s.out (pixelAddress s.y.toNat s.stride.toNat s.x.toNat) w
  generalize Memory.writeFields s.out (pixelFields (pixelAddress s.y.toNat s.stride.toNat s.x.toNat) w) = o
    at hexec hread
  rw [blue_eq_ofNat, green_eq_ofNat, red_eq_ofNat] at hread
  have hx : s.width.toNat ≤ s.x.toNat + 1 := by rw [hw0]; exact Nat.zero_le _
  by_cases hy : s.y = 0#32
  · refine ⟨o, s.y, .ret, ?_, fun h => absurd hy h, fun _ => ⟨hy, rfl⟩, hread⟩
    exact hexec.trans (congrArg _ (advance_atImageEnd (s := s.withOut o) hx (congrArg BitVec.toNat hy)))
  · refine ⟨o, s.y - 1, s.phase, ?_, fun _ => ⟨toNat_sub_one_of_ne hy, rfl⟩, fun h => absurd h hy, hread⟩
    exact hexec.trans (congrArg _ (advance_atRowEnd (s := s.withOut o) hx (toNat_ne_zero_of_ne hy)))

/-! ### Stores beyond OUT_CAP (log 12) -/

theorem execWfh_of_outside {s : State} (h : s.outCap < 14) : execWfh s = .fault .outAddressAbsent := by
  have hfs := State.storeOut_of_outside (s := s) (fs := fileHeaderFields s.flen.toNat)
    (f := ⟨10, 4, Config.pixelDataOffset⟩) (by simp [fileHeaderFields]) h
  rw [execWfh, hfs]

theorem execWdib_of_outside {s : State} (h : s.outCap < 54) : execWdib s = .fault .outAddressAbsent := by
  have hfs := State.storeOut_of_outside (s := s)
    (fs := dibHeaderFields s.width.toNat s.height.toNat s.pasize.toNat) (f := ⟨50, 4, 0⟩) (by simp [dibHeaderFields]) h
  rw [execWdib, hfs]

theorem execXpix_of_outside {s : State} {w : Word} (hp : s.p.toNat < s.pixlen.toNat) (hw : s.pixWord s.p = some w)
    (h : s.outCap < pixelAddress s.y.toNat s.stride.toNat s.x.toNat + 3) : execXpix s = .fault .outAddressAbsent := by
  have hr := State.memReadPix_ok.2 ⟨hp, hw⟩
  have hfs := State.storeOut_of_outside (s := s)
    (fs := pixelFields (pixelAddress s.y.toNat s.stride.toNat s.x.toNat) w)
    (f := ⟨pixelAddress s.y.toNat s.stride.toNat s.x.toNat + 2, 1, (red w).toNat⟩) (by simp [pixelFields]) h
  simp only [execXpix, hr, hfs]

/-- Settles O26: the last field of each operation's stores lies outside. -/
theorem storesBeyondOutCapFault : Obligations.StoresBeyondOutCapFault := by
  refine fun s => ⟨execWfh_of_outside, execWdib_of_outside, fun hp hw h => ?_⟩
  obtain ⟨w, hw⟩ := Option.isSome_iff_exists.1 hw
  exact execXpix_of_outside hp hw h

/-! ### HEIGHT = 0 (log 13, 14) -/

/-- GEOM past its range check: only the counter of free values moves besides the geometry and PHASE. -/
theorem execGeom_of_inRange {s : State} (h : fileLengthOf s.width.toNat s.height.toNat ≤ Config.flenMax) :
    ∃ st n, execGeom s = .next (((s.withDraws n).withGeometry st
        (BitVec.ofNat 32 (pixelArraySizeOf s.width.toNat s.height.toNat))
        (BitVec.ofNat 32 (fileLengthOf s.width.toNat s.height.toNat))).withPhase .chklen) ∧
      (strideOf s.width.toNat < 2 ^ 32 → st.toNat = strideOf s.width.toNat ∧ n = s.draws) := by
  obtain ⟨n, hn⟩ := s.natForReg_snd (strideOf s.width.toNat)
  refine ⟨(s.natForReg (strideOf s.width.toNat)).1, n, ?_, fun hst => ?_⟩
  · simp only [execGeom, if_neg h.not_gt, hn]
  · rw [State.natForReg_of_lt hst] at hn ⊢
    exact ⟨toNat_ofNat_of_lt hst, (congrArg State.draws hn).symm⟩

/-- Adjacent fields end where their bytes do. -/
theorem AdjacentFrom.end_le {a : Nat} {f : Field} {fs : List Field} (h : AdjacentFrom a fs) (hf : f ∈ fs) :
    f.addr + f.size ≤ a + (fieldBytes fs).length := by
  induction fs generalizing a with
  | nil => cases hf
  | cons g fs ih =>
    obtain ⟨rfl, hfs⟩ := h
    rw [fieldBytes_cons, List.length_append, length_leBytes]
    obtain rfl | hf := List.mem_cons.1 hf
    · omega
    · have := ih hfs hf
      omega

/-- WDIB inside OUT_CAP, whatever HEIGHT is. -/
theorem execWdib_answers {s : State} (h : 54 ≤ s.outCap) : ∃ t, execWdib s = .next t := by
  have hlen : (fieldBytes (dibHeaderFields s.width.toNat s.height.toNat s.pasize.toNat)).length = 40 := by
    simp [fieldBytes_dibHeaderFields]
  have hs := State.storeOut_of_inside (s := s) (fs := dibHeaderFields s.width.toNat s.height.toNat s.pasize.toNat)
    fun f hf => by
      have hend := (adjacentFrom_dibHeaderFields _ _ _).end_le hf
      omega
  rw [execWdib, hs]
  exact ⟨_, rfl⟩

/-- Settles O23: the file length of an image without rows is 54, which passes GEOM's check, and WDIB's fields are those of
R94 with HEIGHT = 0. -/
theorem heightZeroLeavesOnlyStrideAndYOpen : Obligations.HeightZeroLeavesOnlyStrideAndYOpen := by
  intro s hh
  have hh0 : s.height.toNat = 0 := congrArg BitVec.toNat hh
  refine ⟨?_, fun hcap => ?_⟩
  · have hflen : fileLengthOf s.width.toNat s.height.toNat = 54 := by rw [hh0]; rfl
    obtain ⟨st, n, hexec, hst⟩ := execGeom_of_inRange (s := s) (by rw [hflen]; decide)
    rw [hflen, hh0] at hexec
    exact ⟨st, n, hexec, hst⟩
  · obtain ⟨t, hexec⟩ := execWdib_answers hcap
    obtain ⟨-, n, vy, -, rfl⟩ := execWdib_next hexec
    have hread := Memory.read_writeDibHeader s.out s.width.toNat s.height.toNat s.pasize.toNat
    generalize Memory.writeFields s.out (dibHeaderFields s.width.toNat s.height.toNat s.pasize.toNat) = o at hexec hread
    refine ⟨o, vy, n, hexec, fun a => ?_⟩
    rw [hread, fieldBytes_dibHeaderFields, hh0, leBytes_four, leBytes_four s.pasize.toNat]
    rfl

end Sys2Proof.Machine
end

section
/-! HOST's actions at the interface: what each takes from the agenda, answers and leaves (R40, R111, R248, R252). -/

namespace Sys2Proof.Machine

/-! ### One equation per action -/

section
variable {s : State} {rest : List HostAction}

theorem step_writePix {i w : Word} (ha : s.agenda = .writePix i w :: rest) :
    step s = hostWritePix i w (s.withAgenda rest) := by
  rw [step, turn, ha]

theorem step_readPix {i : Word} (ha : s.agenda = .readPix i :: rest) :
    step s = .next ((s.withAgenda rest).withReply (.pixWord i (s.pixContents i))) := by
  rw [step, turn, ha]
  rfl

theorem step_readOut {a : Word} (ha : s.agenda = .readOut a :: rest) : step s = hostReadOut a (s.withAgenda rest) := by
  rw [step, turn, ha]

theorem step_collect (ha : s.agenda = .collect :: rest) : step s = hostCollect rest s := by
  rw [step, turn, ha]

/-- The poll of WAIT that finds the block not BUSY ends it with STATUS. -/
theorem step_wait_of_not_busy (ha : s.agenda = .wait :: rest) (h : s.phase.busy = false) :
    step s = .next ((s.withAgenda rest).withReply (.reg .status s.status)) :=
  (step_wait ha).trans (waitTurn_of_not_busy rest h)

/-- RDOUT in DONE below OUTLEN answers what stands there. -/
theorem step_readOut_of_done {a : Word} (ha : s.agenda = .readOut a :: rest) (hq : s.phase = .done)
    (hlt : a.toNat < s.outlen.toNat) :
    step s = .next ((s.withAgenda rest).withReply (.outByte a (s.outContents a.toNat))) :=
  (step_readOut ha).trans (if_pos ⟨hq, hlt⟩)

theorem step_writePix_of_not_busy {i w : Word} (ha : s.agenda = .writePix i w :: rest) (h : s.phase.busy = false) :
    step s = .next ((s.withAgenda rest).storePixWord i w) :=
  (step_writePix ha).trans (if_neg (Bool.eq_false_iff.1 h))

theorem step_collect_of_done (ha : s.agenda = .collect :: rest) (hq : s.phase = .done) :
    step s = .next (s.withAgenda (readsOfOut s.outlen.toNat ++ rest)) :=
  (step_collect ha).trans (if_pos hq)

theorem step_collect_of_not_done (ha : s.agenda = .collect :: rest) (hq : s.phase ≠ .done) :
    step s = .next (s.withAgenda rest) :=
  (step_collect ha).trans (if_neg hq)

end

/-! ### PIX -/

/-- Settles O43: past the BUSY check the write is one stored word. -/
theorem pixIsWrittenOutsideBusyOnly : Obligations.PixIsWrittenOutsideBusyOnly := by
  refine fun s i w rest ha => ⟨fun hbusy => ?_, fun hbusy => ?_⟩
  · exact (step_writePix ha).trans (if_pos hbusy)
  · exact ⟨_, step_writePix_of_not_busy ha hbusy, s.pixWord_storePixWord i w,
      fun j hj => s.pixWord_storePixWord_of_ne hj⟩

/-- Settles O45: each read is the equation of its action. -/
theorem hostReadsItsRegistersAndPix : Obligations.HostReadsItsRegistersAndPix := by
  refine fun s rest => ⟨fun ha => step_readReg ha rfl, fun ha => step_readReg ha rfl, fun ha => step_readReg ha rfl,
    fun ha => step_readReg ha rfl, fun i ha => ⟨s.pixContents i, step_readPix ha, fun w' hw => ?_⟩⟩
  exact State.pixContents_of_written hw

/-- Settles O46: neither the agenda nor the replies enter what a read of PIX finds. -/
theorem pixReadsRepeat : Obligations.PixReadsRepeat := by
  intro s i rest ha
  have hrun := runSteps_succ (n := 1) (step_readPix ha)
  rw [runSteps_succ (n := 0) (step_readPix (rest := rest) rfl), runSteps_zero] at hrun
  exact ⟨s.pixContents i, _, hrun, List.append_assoc s.replies _ _, rfl⟩

/-! ### Registers HOST cannot reach -/

/-- Settles O47: HOST has no view of the six registers, and the write of each of the seven is ignored. -/
theorem hostCannotReachInternalRegisters : Obligations.HostCannotReachInternalRegisters := by
  intro s rest r v hr
  refine ⟨fun hne ha => ?_, fun ha => ?_⟩
  · have hview : s.hostView r = none := by
      obtain rfl | rfl | rfl | rfl | rfl | rfl | rfl := hr
      case inr.inr.inr.inr.inr.inr => exact absurd rfl hne
      all_goals rfl
    simp only [step, turn, ha, hostReadReg, State.hostView_withAgenda, hview]
  · rw [step_writeReg ha]
    obtain rfl | rfl | rfl | rfl | rfl | rfl | rfl := hr <;> rfl

/-! ### OUT, WAIT and the collection -/

/-- Settles O44: RDOUT's two branches, and the invariant in DONE. -/
theorem outIsReadInDoneOnly : Obligations.OutIsReadInDoneOnly := by
  refine fun s a rest ha => ⟨fun h => ?_, fun hq hlt => ?_, fun hs hq hlt => ?_⟩
  · refine (step_readOut ha).trans (if_neg ?_)
    rintro ⟨hq, hlt⟩
    exact h.elim (absurd hq) fun hle => absurd hlt hle.not_gt
  · exact ⟨_, step_readOut_of_done ha hq hlt, fun _ => State.outContents_of_written⟩
  · obtain ⟨-, -, -, hbytes⟩ := hs.outlenDone hq
    exact Option.isSome_iff_exists.1 (hbytes _ hlt)

/-- What a poll of WAIT runs while BUSY leaves HOST's agenda (R196). -/
theorem agenda_eq_of_exec {i : Instr} {s t : State} (h : exec i s = .next t) : t.agenda = s.agenda := by
  obtain ⟨-, -, -, -, -, -, hagenda, -⟩ := encNeverWritesTheHostSide i s t h
  exact hagenda

/-- Settles O48: outside BUSY the poll ends WAIT, while BUSY it runs an operation, which leaves the agenda. -/
theorem waitEndsWithStatus : Obligations.WaitEndsWithStatus := by
  refine fun s rest ha => ⟨step_wait_of_not_busy ha, fun hbusy t hstep => ?_⟩
  obtain ⟨i, hi⟩ := s.phase.busy_iff_decodes.1 hbusy
  rw [step_wait ha, waitTurn_of_busy rest hbusy, encTurn_of_decodes hi] at hstep
  exact (agenda_eq_of_exec hstep).trans ha

/-- What the call makes of the STATUS that ended WAIT and the replies after it (R112). -/
theorem callResultOf_status (s : State) (l : List Reply) :
    callResultOf (.reg .status s.status :: l) =
      match s.phase, s.err with
      | .done, _ => .bytes (bytesOf l)
      | .error, .invalidDimensions => .failure .invalidDimensions
      | .error, .bufferTooShort => .failure .bufferTooShort
      | _, _ => .noResult := by
  simp only [callResultOf, State.extractLsb'_status_phase, State.extractLsb'_status_err]
  cases s.phase <;> cases s.err <;> rfl

/-- Settles O58: outside DONE the collection is used up, and STATUS alone gives the result. -/
theorem collectReadsNothingWithoutOutput : Obligations.CollectReadsNothingWithoutOutput := by
  refine fun s rest ha => ⟨fun hq => ⟨?_, fun he => ?_, fun he => ?_⟩, fun hq => ⟨?_, ?_⟩⟩
  · exact step_collect_of_not_done ha (by rw [hq]; decide)
  · rw [callResultOf_status, hq, he]
  · rw [callResultOf_status, hq, he]
  · exact step_collect_of_not_done ha (by rw [hq]; decide)
  · rw [callResultOf_status, hq]

/-! ### What HOST's actions leave to ENC (R17) -/

/-- A step that takes a host action other than those that make ENC move is one of HOST's own effects, and only the collection
puts anything on the agenda. -/
theorem hostEffect_of_step {s t : State} {a : HostAction} {rest : List HostAction} (ha : s.agenda = a :: rest)
    (hcmd : ∀ b, a ≠ .command b) (hctrl : ∀ v, a ≠ .writeReg .ctrlStart v) (hrst : a ≠ .rst)
    (hturn : s.phase.busy = true → a ≠ .wait ∧ a ≠ .pass) (h : step s = .next t) :
    ∃ l, HostEffect (s.withAgenda l) t ∧ (a ≠ .collect → l = rest) := by
  cases a with
  | writeReg r v =>
    rw [step_writeReg ha] at h
    obtain rfl | ⟨hi, ht⟩ := hostWriteReg_next_of_ne (fun hr => hctrl v (by rw [hr])) h
    · exact ⟨rest, .same rfl, fun _ => rfl⟩
    · exact ⟨rest, .operand hi v ht, fun _ => rfl⟩
  | writePix i w =>
    rw [step_writePix ha] at h
    obtain ⟨hb, ht⟩ := hostWritePix_next h
    exact ⟨rest, .pixWord hb i w ht, fun _ => rfl⟩
  | command b => exact absurd rfl (hcmd b)
  | wait =>
    cases hb : s.phase.busy with
    | true => exact absurd rfl (hturn hb).1
    | false =>
      rw [step_wait_of_not_busy ha hb] at h
      exact ⟨rest, .reply _ (Host.Outcome.next.inj h).symm, fun _ => rfl⟩
  | readReg r =>
    rw [step, turn, ha] at h
    obtain ⟨q, ht⟩ := hostReadReg_next h
    exact ⟨rest, .reply q ht, fun _ => rfl⟩
  | readPix i =>
    rw [step_readPix ha] at h
    exact ⟨rest, .reply _ (Host.Outcome.next.inj h).symm, fun _ => rfl⟩
  | readOut a =>
    rw [step_readOut ha] at h
    obtain ⟨q, ht⟩ := hostReadOut_next h
    exact ⟨rest, .reply q ht, fun _ => rfl⟩
  | collect =>
    rw [step_collect ha] at h
    obtain ⟨l, ht⟩ := hostCollect_next h
    exact ⟨l, .same ht, fun hne => absurd rfl hne⟩
  | pass =>
    cases hb : s.phase.busy with
    | true => exact absurd rfl (hturn hb).2
    | false =>
      rw [step_pass ha, passTurn_of_not_busy (s := s.withAgenda rest) hb] at h
      exact ⟨rest, .same (Host.Outcome.next.inj h).symm, fun _ => rfl⟩
  | rst => exact absurd rfl hrst

theorem HostEffect.agenda_eq {u t : State} (h : HostEffect u t) : t.agenda = u.agenda := by
  obtain rfl | ⟨_, v, rfl | rfl | rfl⟩ | ⟨_, i, w, rfl⟩ | ⟨q, rfl⟩ := h <;> rfl

/-- Settles O28: such a step is one of HOST's own effects, and none of these reaches ENC's side. -/
theorem hostNeverWritesTheEncSide : Obligations.HostNeverWritesTheEncSide := by
  intro s t a rest ha hcmd hctrl hrst hturn h
  obtain ⟨l, effect, hl⟩ := hostEffect_of_step ha hcmd hctrl hrst hturn h
  exact ⟨effect.sameEncSide, effect.outCap_eq, fun hne => effect.agenda_eq.trans (hl hne)⟩

/-- Settles O10: no edge of the phase graph leaves HALT, so only reset does. -/
theorem haltIsLeftOnlyByReset : Obligations.HaltIsLeftOnlyByReset := by
  refine fun s hq => ⟨fun ha => ?_, fun t hstep => ?_⟩
  · rw [step_nil ha, encTurn_of_not_busy (by rw [hq]; rfl), if_pos hq]
  · obtain hsame | hedge | hreset := phaseFollowsTheGraph s t hstep
    · exact .inl (hsame.trans hq)
    · rw [hq] at hedge
      cases hedge
    · exact .inr hreset

end Sys2Proof.Machine
end

section
/-! The file of the big-step function: its length, where every byte of it stands (R92, R95), and what of PIX it depends on
(R177, R194). -/

namespace Sys2Proof.Machine

/-! ### Lists made of equally long pieces -/

section
variable {α : Type} {f : Nat → List α} {k : Nat} (hf : ∀ i, (f i).length = k)
include hf

theorem length_flatMap_range (n : Nat) : ((List.range n).flatMap f).length = n * k := by
  induction n with
  | zero => simp
  | succ n ih => rw [List.range_succ, List.flatMap_append, List.length_append, ih, List.flatMap_singleton, hf, Nat.succ_mul]

/-- Element j of piece i. -/
theorem getElem?_flatMap_range {n i j : Nat} (hi : i < n) (hj : j < k) :
    ((List.range n).flatMap f)[i * k + j]? = (f i)[j]? := by
  induction n with
  | zero => cases hi
  | succ n ih =>
    rw [List.range_succ, List.flatMap_append, List.flatMap_singleton]
    have hlen := length_flatMap_range hf n
    obtain hlt | rfl := Nat.lt_or_eq_of_le (Nat.le_of_lt_succ hi)
    · have hend := row_end_le (st := k) hlt
      rw [List.getElem?_append_left (by rw [hlen, Nat.mul_comm n]; omega), ih hlt]
    · rw [List.getElem?_append_right (by omega), hlen, Nat.add_sub_cancel_left]

end

/-! ### Rows (R95) -/

theorem length_bmpPixel (v : Word) : (bmpPixel v).length = 3 := rfl

/-- A pixel's bytes as numbers: blue, green, red. -/
theorem bmpPixel_eq (v : Word) :
    bmpPixel v = [BitVec.ofNat 8 (v.toNat / 2 ^ 16), BitVec.ofNat 8 (v.toNat / 2 ^ 8), BitVec.ofNat 8 v.toNat] := by
  rw [bmpPixel, blue_eq_ofNat, green_eq_ofNat, red_eq_ofNat]

section
variable (w h : Nat) (pix : Nat → Word) (y : Nat)

theorem length_bmpRow : (bmpRow w h pix y).length = strideOf w := by
  have hst := three_mul_le_strideOf w
  rw [bmpRow, List.length_append, length_flatMap_range fun _ => length_bmpPixel _, List.length_replicate]
  omega

theorem getElem?_bmpRow_pixel {x c : Nat} (hx : x < w) (hc : c < 3) :
    (bmpRow w h pix y)[3 * x + c]? = (bmpPixel (pix ((h - 1 - y) * w + x)))[c]? := by
  rw [bmpRow, List.getElem?_append_left, Nat.mul_comm 3 x, getElem?_flatMap_range (fun _ => length_bmpPixel _) hx hc]
  rw [length_flatMap_range fun _ => length_bmpPixel _]
  omega

theorem getElem?_bmpRow_padding {k : Nat} (hk : 3 * w ≤ k) (hk' : k < strideOf w) :
    (bmpRow w h pix y)[k]? = some 0#8 := by
  have hlen := length_flatMap_range (f := fun x => bmpPixel (pix ((h - 1 - y) * w + x))) (fun _ => length_bmpPixel _) w
  rw [bmpRow, List.getElem?_append_right (by omega), List.getElem?_replicate, if_pos (by omega)]

end

/-! ### The file (R92) -/

section
variable (w h : Nat) (pix : Nat → Word)

theorem length_bmpHeader : (bmpHeader w h).length = 54 := by
  simp [bmpHeader]

theorem length_bmpFile : (bmpFile w h pix).length = fileLengthOf w h := by
  rw [bmpFile, List.length_append, length_bmpHeader, length_flatMap_range (length_bmpRow w h pix), fileLengthOf_eq,
    pixelArraySizeOf, Nat.mul_comm h]

theorem getElem?_bmpFile_header {a : Nat} (ha : a < 54) : (bmpFile w h pix)[a]? = (bmpHeader w h)[a]? :=
  List.getElem?_append_left (by rw [length_bmpHeader]; exact ha)

theorem getElem?_bmpFile_row {y k : Nat} (hy : y < h) (hk : k < strideOf w) :
    (bmpFile w h pix)[54 + y * strideOf w + k]? = (bmpRow w h pix y)[k]? := by
  have hlen := length_bmpHeader w h
  rw [bmpFile, List.getElem?_append_right (by omega), hlen, Nat.add_assoc, Nat.add_sub_cancel_left,
    getElem?_flatMap_range (length_bmpRow w h pix) hy hk]

theorem getElem?_bmpFile_pixel {y x c : Nat} (hy : y < h) (hx : x < w) (hc : c < 3) :
    (bmpFile w h pix)[pixelAddress y (strideOf w) x + c]? = (bmpPixel (pix ((h - 1 - y) * w + x)))[c]? := by
  have hst := three_mul_le_strideOf w
  rw [pixelAddress_eq, Nat.add_assoc _ (3 * x), getElem?_bmpFile_row w h pix hy (by omega),
    getElem?_bmpRow_pixel w h pix y hx hc]

theorem getElem?_bmpFile_padding {y k : Nat} (hy : y < h) (hk : 3 * w ≤ k) (hk' : k < strideOf w) :
    (bmpFile w h pix)[54 + y * strideOf w + k]? = some 0#8 := by
  rw [getElem?_bmpFile_row w h pix hy hk', getElem?_bmpRow_padding w h pix y hk hk']

/-- The header of the big-step function is WFH's bytes, then WDIB's. -/
theorem bmpHeader_eq :
    bmpHeader w h =
      fieldBytes (fileHeaderFields (fileLengthOf w h)) ++ fieldBytes (dibHeaderFields w h (pixelArraySizeOf w h)) := by
  simp [bmpHeader, fieldBytes_fileHeaderFields, fieldBytes_dibHeaderFields, fileLengthOf_eq, pixelArraySizeOf, leBytes]

theorem getElem?_bmpHeader_low {a : Nat} (ha : a < 14) :
    (bmpHeader w h)[a]? = (fieldBytes (fileHeaderFields (fileLengthOf w h)))[a]? := by
  rw [bmpHeader_eq, List.getElem?_append_left]
  simpa [fieldBytes_fileHeaderFields] using ha

theorem getElem?_bmpHeader_high {a : Nat} (ha : 14 ≤ a) :
    (bmpHeader w h)[a]? = (fieldBytes (dibHeaderFields w h (pixelArraySizeOf w h)))[a - 14]? := by
  have hlen : (fieldBytes (fileHeaderFields (fileLengthOf w h))).length = 14 := by simp [fieldBytes_fileHeaderFields]
  rw [bmpHeader_eq, List.getElem?_append_right (by omega), hlen]

end

/-- Settles O49: the bytes of a pixel and of the padding, read off the file's rows. -/
theorem bigStepFileHasTheBmpLayout : Obligations.BigStepFileHasTheBmpLayout := by
  refine fun w h pix => ⟨length_bmpFile w h pix, fun y x hy hx => ?_, fun y k => getElem?_bmpFile_padding w h pix⟩
  have hbyte (c : Nat) (hc : c < 3) := getElem?_bmpFile_pixel w h pix hy hx hc
  rw [bmpPixel_eq] at hbyte
  exact ⟨hbyte 0 (by decide), hbyte 1 (by decide), hbyte 2 (by decide)⟩

/-! ### What the file depends on -/

/-- A pixel's bytes are its low 24 bits (R91). -/
theorem bmpPixel_congr {v v' : Word} (h : v.toNat % 2 ^ 24 = v'.toNat % 2 ^ 24) : bmpPixel v = bmpPixel v' := by
  have hbyte {a b : Nat} (hab : a % 2 ^ 8 = b % 2 ^ 8) : BitVec.ofNat 8 a = BitVec.ofNat 8 b :=
    BitVec.eq_of_toNat_eq (by rw [BitVec.toNat_ofNat, BitVec.toNat_ofNat, hab])
  have hblue := hbyte (a := v.toNat / 2 ^ 16) (b := v'.toNat / 2 ^ 16) (by omega)
  have hgreen := hbyte (a := v.toNat / 2 ^ 8) (b := v'.toNat / 2 ^ 8) (by omega)
  have hred := hbyte (a := v.toNat) (b := v'.toNat) (by omega)
  rw [bmpPixel_eq, bmpPixel_eq, hblue, hgreen, hred]

/-- Settles O50: every pixel of every row has its index below w * h. -/
theorem alphaAndSurplusWordsAreIgnored : Obligations.AlphaAndSurplusWordsAreIgnored := by
  intro w h pix pix' heq
  rw [bmpFile, bmpFile]
  congr 1
  refine List.flatMap_congr fun y hy => congrArg (· ++ _) (List.flatMap_congr fun x hx => ?_)
  rw [List.mem_range] at hy hx
  exact bmpPixel_congr (heq _ (pixelIndex_lt hy hx))

end Sys2Proof.Machine
end

section
/-! The run of an accepted operation, step by step (R18, R191, R192): the checks, ALLOC, the headers, and the row loop with
the bytes that are due. -/

namespace Sys2Proof.Machine

/-! ### The three kinds of result and their step counts -/

/-- What CHKDIM demands of the two dimensions (R121, R122). -/
def DimensionsPass (w h : Nat) : Prop := (w ≠ 0 ∧ h ≠ 0) ∧ w ≤ Config.dimMax ∧ h ≤ Config.dimMax

/-- The operands pass every check, so the operation gets as far as its first pixel. -/
structure OperandsPass (outCap w h l : Nat) : Prop where
  dimensions : DimensionsPass w h
  fileLength : fileLengthOf w h ≤ Config.flenMax
  buffer : w * h ≤ l
  fits : fileLengthOf w h ≤ outCap

/-- The way an operation goes, with its result (R191) and its step count (R192): one constructor per deciding check. -/
inductive EncodeCase (outCap w h l : Nat) (pix : Nat → Word) : EncodeResult → Nat → Prop
  | badDimension (hd : (w = 0 ∨ h = 0) ∨ Config.dimMax < w ∨ Config.dimMax < h) :
      EncodeCase outCap w h l pix (.error .invalidDimensions) 1
  | tooLong (hd : DimensionsPass w h) (hf : Config.flenMax < fileLengthOf w h) :
      EncodeCase outCap w h l pix (.error .invalidDimensions) 2
  | short (hd : DimensionsPass w h) (hf : fileLengthOf w h ≤ Config.flenMax) (hl : l < w * h) :
      EncodeCase outCap w h l pix (.error .bufferTooShort) 3
  | halt (hd : DimensionsPass w h) (hf : fileLengthOf w h ≤ Config.flenMax) (hl : w * h ≤ l)
      (hc : outCap < fileLengthOf w h) : EncodeCase outCap w h l pix .halt 4
  | file (hpass : OperandsPass outCap w h l) : EncodeCase outCap w h l pix (.done (bmpFile w h pix)) (7 + w * h)

/-- The big-step function and the step count go the same way. -/
theorem encodeCase (outCap w h l : Nat) (pix : Nat → Word) :
    EncodeCase outCap w h l pix (encodeResult outCap w h l pix) (encodeSteps outCap w h l) := by
  unfold encodeResult encodeSteps
  split_ifs with hzero hmax hlong hshort hcap
  · exact .badDimension (.inl hzero)
  · exact .badDimension (.inr hmax)
  all_goals have hd : DimensionsPass w h :=
    ⟨not_or.1 hzero, not_lt.1 (not_or.1 hmax).1, not_lt.1 (not_or.1 hmax).2⟩
  · exact .tooLong hd hlong
  · exact .short hd (not_lt.1 hlong) hshort
  · exact .halt hd (not_lt.1 hlong) (not_lt.1 hshort) hcap
  · exact .file ⟨hd, not_lt.1 hlong, not_lt.1 hshort, not_lt.1 hcap⟩

/-- The operands in s pass every check. -/
abbrev State.OperandsPass (s : State) : Prop :=
  Machine.OperandsPass s.outCap s.width.toNat s.height.toNat s.pixlen.toNat

theorem encodeResult_done {outCap w h l : Nat} {pix : Nat → Word} {file : List Byte}
    (hr : encodeResult outCap w h l pix = .done file) : OperandsPass outCap w h l ∧ file = bmpFile w h pix := by
  have hcase := encodeCase outCap w h l pix
  rw [hr] at hcase
  generalize encodeSteps outCap w h l = k at hcase
  cases hcase with
  | file hpass => exact ⟨hpass, rfl⟩

/-- Both numbers of an operation that passes every check. -/
theorem encode_of_operandsPass {outCap w h l : Nat} (pix : Nat → Word) (hpass : OperandsPass outCap w h l) :
    encodeResult outCap w h l pix = .done (bmpFile w h pix) ∧ encodeSteps outCap w h l = 7 + w * h := by
  obtain ⟨⟨⟨hw0, hh0⟩, hw, hh⟩, hf, hl, hc⟩ := hpass
  rw [fileLengthOf_eq, pixelArraySizeOf] at hf hc
  simp only [encodeResult, encodeSteps, hw0, hh0, hw.not_gt, hh.not_gt, hf.not_gt, hl.not_gt, hc.not_gt, or_self, if_false,
    and_self]

/-! ### Runs of ENC alone -/

/-- n steps after the accepted START of s, HOST's side is as in s, and the state has what its phase asks for. -/
structure Reaches (s : State) (n : Nat) (t : State) : Prop where
  run : runSteps n s.start = .next t
  host : SameHostSide s t
  facts : t.PhaseFacts t.phase

theorem SameHostSide.trans {s t u : State} (h : SameHostSide s t) (h' : SameHostSide t u) : SameHostSide s u := by
  obtain ⟨hw, hh, hl, hp, hr, hc, ha, hy⟩ := h
  obtain ⟨hw', hh', hl', hp', hr', hc', ha', hy'⟩ := h'
  exact ⟨hw'.trans hw, hh'.trans hh, hl'.trans hl, hp'.trans hp, hr'.trans hr, hc'.trans hc, ha'.trans ha, hy'.trans hy⟩

theorem Reaches.start (s : State) : Reaches s 0 s.start :=
  ⟨rfl, sameHostSide_start s, ⟨rfl, rfl⟩⟩

theorem runSteps_one (s : State) : runSteps 1 s = step s := by
  rw [runSteps]
  cases step s <;> rfl

/-- The operation that PHASE selects is the next step of the run. -/
theorem Reaches.next {s t u : State} {n : Nat} {i : Instr} (h : Reaches s n t) (ha : s.agenda = [])
    (hi : decode (.phase t.phase.code) = .ok i) (he : exec i t = .next u) : Reaches s (n + 1) u := by
  obtain ⟨hrun, hhost, hfacts⟩ := h
  have ⟨_, _, _, _, _, _, hagenda, _⟩ := hhost
  refine ⟨?_, hhost.trans (encNeverWritesTheHostSide i t u he), exec_facts hi hfacts he⟩
  rw [runSteps_add hrun, runSteps_one, step_of_decodes (hagenda.trans ha) hi, he]

/-! ### The checks -/

section
variable {s : State} (ha : s.agenda = [])
include ha

theorem reaches_badDimension
    (hd : (s.width.toNat = 0 ∨ s.height.toNat = 0) ∨ Config.dimMax < s.width.toNat ∨ Config.dimMax < s.height.toNat) :
    ∃ t : State, Reaches s 1 (t.raise .invalidDimensions) ∧ t.out = s.out :=
  ⟨s.start, (Reaches.start s).next ha (i := .chkdim) rfl
    (hd.elim (execChkdim_of_zero (s := s.start)) (execChkdim_of_above (s := s.start))), rfl⟩

theorem reaches_geom (hd : DimensionsPass s.width.toNat s.height.toNat) :
    ∃ t : State, Reaches s 1 t ∧ t.phase = .geom ∧ t.out = s.out := by
  obtain ⟨⟨hw0, hh0⟩, hw, hh⟩ := hd
  exact ⟨_, (Reaches.start s).next ha (i := .chkdim) rfl (execChkdim_of_inRange (s := s.start) hw0 hh0 hw hh), rfl, rfl⟩

theorem reaches_tooLong (hd : DimensionsPass s.width.toNat s.height.toNat)
    (hf : Config.flenMax < fileLengthOf s.width.toNat s.height.toNat) :
    ∃ t : State, Reaches s 2 (t.raise .invalidDimensions) ∧ t.out = s.out := by
  obtain ⟨t, ht, hq, hout⟩ := reaches_geom ha hd
  have ⟨hw, hh, _⟩ := ht.host
  rw [← hw, ← hh] at hf
  exact ⟨t, ht.next ha (i := .geom) (by rw [hq]; rfl) (execGeom_of_tooLong hf), hout⟩

theorem reaches_chklen (hd : DimensionsPass s.width.toNat s.height.toNat)
    (hf : fileLengthOf s.width.toNat s.height.toNat ≤ Config.flenMax) :
    ∃ t : State, Reaches s 2 t ∧ t.phase = .chklen ∧ t.out = s.out := by
  obtain ⟨t, ht, hq, hout⟩ := reaches_geom ha hd
  obtain ⟨⟨-, hh0⟩, -⟩ := hd
  have ⟨hw, hh, _⟩ := ht.host
  rw [← hw, ← hh] at hf
  rw [← hh] at hh0
  exact ⟨_, ht.next ha (i := .geom) (by rw [hq]; rfl) (execGeom_of_fits hh0 hf), rfl, hout⟩

theorem reaches_short (hd : DimensionsPass s.width.toNat s.height.toNat)
    (hf : fileLengthOf s.width.toNat s.height.toNat ≤ Config.flenMax)
    (hl : s.pixlen.toNat < s.width.toNat * s.height.toNat) :
    ∃ t : State, Reaches s 3 (t.raise .bufferTooShort) ∧ t.out = s.out := by
  obtain ⟨t, ht, hq, hout⟩ := reaches_chklen ha hd hf
  have ⟨hw, hh, hpl, _⟩ := ht.host
  rw [← hw, ← hh, ← hpl] at hl
  exact ⟨t, ht.next ha (i := .chklen) (by rw [hq]; rfl) (execChklen_of_short hl), hout⟩

theorem reaches_alloc (hd : DimensionsPass s.width.toNat s.height.toNat)
    (hf : fileLengthOf s.width.toNat s.height.toNat ≤ Config.flenMax)
    (hl : s.width.toNat * s.height.toNat ≤ s.pixlen.toNat) :
    ∃ t : State, Reaches s 3 t ∧ t.phase = .alloc ∧ t.out = s.out := by
  obtain ⟨t, ht, hq, hout⟩ := reaches_chklen ha hd hf
  have ⟨hw, hh, hpl, _⟩ := ht.host
  rw [← hw, ← hh, ← hpl] at hl
  exact ⟨_, ht.next ha (i := .chklen) (by rw [hq]; rfl) (execChklen_of_long hl), rfl, hout⟩

omit ha in
/-- Past GEOM the geometry registers of the run hold the exact values of the operands (R123). -/
theorem Reaches.geometry {t : State} {n : Nat} (ht : Reaches s n t) (hq : t.phase.pastGeom = true) :
    t.stride.toNat = strideOf s.width.toNat ∧ t.pasize.toNat = pixelArraySizeOf s.width.toNat s.height.toNat ∧
      t.flen.toNat = fileLengthOf s.width.toNat s.height.toNat := by
  obtain ⟨-, hgeom⟩ := ht.facts.geometry hq
  have ⟨hw, hh, _⟩ := ht.host
  rw [← hw, ← hh]
  exact hgeom

theorem reaches_halt (hd : DimensionsPass s.width.toNat s.height.toNat)
    (hf : fileLengthOf s.width.toNat s.height.toNat ≤ Config.flenMax)
    (hl : s.width.toNat * s.height.toNat ≤ s.pixlen.toNat)
    (hc : s.outCap < fileLengthOf s.width.toNat s.height.toNat) :
    ∃ t : State, Reaches s 4 t.haltOutOfMemory ∧ t.out = s.out := by
  obtain ⟨t, ht, hq, hout⟩ := reaches_alloc ha hd hf hl
  obtain ⟨-, -, hflen⟩ := ht.geometry (by rw [hq]; rfl)
  have ⟨_, _, _, _, _, hcap, _⟩ := ht.host
  rw [← hcap, ← hflen] at hc
  exact ⟨t, ht.next ha (i := .alloc) (by rw [hq]; rfl) (execAlloc_of_exceeds hc), hout⟩

/-! ### The buffer and the headers -/

theorem reaches_wfh (hpass : s.OperandsPass) : ∃ t : State, Reaches s 4 t ∧ t.phase = .wfh ∧
    ∀ a, Memory.read t.out a =
      if a < fileLengthOf s.width.toNat s.height.toNat then some 0#8 else Memory.read s.out a := by
  obtain ⟨hd, hf, hl, hc⟩ := hpass
  obtain ⟨t, ht, hq, hout⟩ := reaches_alloc ha hd hf hl
  obtain ⟨-, -, hflen⟩ := ht.geometry (by rw [hq]; rfl)
  have ⟨_, _, _, _, _, hcap, _⟩ := ht.host
  rw [← hcap, ← hflen] at hc
  refine ⟨_, ht.next ha (i := .alloc) (by rw [hq]; rfl) (execAlloc_of_fits hc), rfl, fun a => ?_⟩
  rw [← hflen, ← hout]
  exact Memory.read_zeroFill _ _ _

omit ha in
theorem Reaches.headers_fit {t : State} {n : Nat} (ht : Reaches s n t) (hq : t.phase.pastAlloc = true) : 54 ≤ t.outCap := by
  obtain ⟨hadm, halloc⟩ := ht.facts.allocated hq
  exact halloc.headers_fit hadm

theorem reaches_wdib (hpass : s.OperandsPass) : ∃ t : State, Reaches s 5 t ∧ t.phase = .wdib ∧
    ∀ a, Memory.read t.out a =
      if a < 14 then (bmpHeader s.width.toNat s.height.toNat)[a]?
      else if a < fileLengthOf s.width.toNat s.height.toNat then some 0#8 else Memory.read s.out a := by
  obtain ⟨t, ht, hq, hout⟩ := reaches_wfh ha hpass
  obtain ⟨-, -, hflen⟩ := ht.geometry (by rw [hq]; rfl)
  have hcap := ht.headers_fit (by rw [hq]; rfl)
  have hexec := execWfh_of_inside (s := t) (by omega)
  have hread := Memory.read_writeFileHeader t.out t.flen.toNat
  generalize Memory.writeFields t.out (fileHeaderFields t.flen.toNat) = o at hexec hread
  refine ⟨_, ht.next ha (i := .wfh) (by rw [hq]; rfl) hexec, rfl, fun a => (hread a).trans ?_⟩
  rw [hout a, hflen]
  exact ite_congr rfl (fun hlow => (getElem?_bmpHeader_low _ _ hlow).symm) fun _ => rfl

/-- After WDIB the whole header stands in OUT, the rest of the file is zero, and what lies above it is as before. -/
theorem reaches_xpix (hpass : s.OperandsPass) : ∃ t : State, Reaches s 6 t ∧ t.phase = .xpix ∧ t.p.toNat = 0 ∧
    ∀ a, Memory.read t.out a =
      if a < 54 then (bmpHeader s.width.toNat s.height.toNat)[a]?
      else if a < fileLengthOf s.width.toNat s.height.toNat then some 0#8 else Memory.read s.out a := by
  obtain ⟨t, ht, hq, hout⟩ := reaches_wdib ha hpass
  obtain ⟨-, hpasize, -⟩ := ht.geometry (by rw [hq]; rfl)
  have ⟨hw, hh, _⟩ := ht.host
  obtain ⟨⟨⟨-, hh0⟩, -⟩, -⟩ := hpass
  obtain ⟨vy, -, hexec⟩ := execWdib_of_inside (s := t) (ht.headers_fit (by rw [hq]; rfl)) (by rw [hh]; exact hh0)
  have hread := Memory.read_writeDibHeader t.out t.width.toNat t.height.toNat t.pasize.toNat
  generalize Memory.writeFields t.out (dibHeaderFields t.width.toNat t.height.toNat t.pasize.toNat) = o at hexec hread
  refine ⟨_, ht.next ha (i := .wdib) (by rw [hq]; rfl) hexec, rfl, rfl, fun a => (hread a).trans ?_⟩
  rw [hout a, hw, hh, hpasize]
  by_cases hhigh : 14 ≤ a ∧ a < 54
  · rw [if_pos hhigh, if_pos hhigh.2, getElem?_bmpHeader_high _ _ hhigh.1]
  · rw [if_neg hhigh]
    by_cases hlow : a < 14
    · rw [if_pos hlow, if_pos (by omega)]
    · rw [if_neg hlow, if_neg fun hlt => hhigh ⟨not_lt.1 hlow, hlt⟩]

end

end Sys2Proof.Machine
end

section
/-! The row loop of an accepted operation (R170 to R181): which bytes of the file still have to come, and the states after
each pixel. -/

namespace Sys2Proof.Machine

/-- What address a of OUT holds once the file of s is complete: the file's byte, or above it what s had there. -/
def State.finalByte (s : State) (a : Nat) : Option Byte :=
  if a < fileLengthOf s.width.toNat s.height.toNat then (bmpFile s.width.toNat s.height.toNat s.pixels)[a]?
  else Memory.read s.out a

/-- Address a holds a byte of a pixel whose index is n or more. -/
def DueFrom (w h n a : Nat) : Prop :=
  ∃ y x c, y < h ∧ x < w ∧ c < 3 ∧ n ≤ (h - 1 - y) * w + x ∧ a = pixelAddress y (strideOf w) x + c

/-- Every byte of m is final but those of the pixels from index n on. -/
def State.DrawnUpTo (s : State) (n : Nat) (m : Memory) : Prop :=
  ∀ a, ¬ DueFrom s.width.toNat s.height.toNat n a → Memory.read m a = s.finalByte a

/-- An address of the file above the headers lies in one row. -/
theorem exists_row_of_lt_fileLengthOf {w h a : Nat} (hlow : 54 ≤ a) (ha : a < fileLengthOf w h) :
    ∃ y k, y < h ∧ k < strideOf w ∧ a = 54 + y * strideOf w + k := by
  rw [fileLengthOf_eq, pixelArraySizeOf] at ha
  have hst : 0 < strideOf w := Nat.pos_of_ne_zero fun h0 => by rw [h0] at ha; omega
  refine ⟨(a - 54) / strideOf w, (a - 54) % strideOf w, ?_, Nat.mod_lt _ hst, ?_⟩
  · exact Nat.div_lt_of_lt_mul (by omega)
  · have := Nat.div_add_mod' (a - 54) (strideOf w)
    omega

/-- After the headers the bytes of all pixels are due: what is no pixel's byte is header, padding, or above the file. -/
theorem State.drawnUpTo_zero {s : State} {m : Memory}
    (hm : ∀ a, Memory.read m a = if a < 54 then (bmpHeader s.width.toNat s.height.toNat)[a]?
      else if a < fileLengthOf s.width.toNat s.height.toNat then some 0#8 else Memory.read s.out a) :
    s.DrawnUpTo 0 m := by
  intro a hdue
  rw [hm, State.finalByte]
  by_cases hhead : a < 54
  · have hlen := fileLengthOf_eq s.width.toNat s.height.toNat
    rw [if_pos hhead, if_pos (by omega), getElem?_bmpFile_header _ _ _ hhead]
  · rw [if_neg hhead]
    refine ite_congr rfl (fun hfile => ?_) fun _ => rfl
    obtain ⟨y, k, hy, hk, rfl⟩ := exists_row_of_lt_fileLengthOf (not_lt.1 hhead) hfile
    refine (getElem?_bmpFile_padding _ _ _ hy (not_lt.1 fun hpix => hdue ?_) hk).symm
    exact ⟨y, k / 3, k % 3, hy, by omega, by omega, Nat.zero_le _, by rw [pixelAddress_eq]; omega⟩

/-- The counters are read off the pixel index (R174). -/
theorem pixel_eq_of_index_eq {w h y y' x x' : Nat} (hy : y < h) (hy' : y' < h) (hx : x < w) (hx' : x' < w)
    (heq : (h - 1 - y) * w + x = (h - 1 - y') * w + x') : y = y' ∧ x = x' := by
  obtain ⟨hrow, hcol⟩ := row_offset_unique hx hx' heq
  exact ⟨by omega, hcol⟩

theorem Memory.read_writePixel_byte (m : Memory) (d : Nat) (v : Word) {c : Nat} (hc : c < 3) :
    Memory.read (Memory.writeFields m (pixelFields d v)) (d + c) = (bmpPixel v)[c]? := by
  rw [Memory.read_writePixel]
  interval_cases c <;> simp [bmpPixel]

/-- Drawing pixel n makes its bytes final (R171). -/
theorem State.DrawnUpTo.succ {s : State} {m : Memory} {n y x : Nat} {v : Word} (h : s.DrawnUpTo n m)
    (hy : y < s.height.toNat) (hx : x < s.width.toNat) (hn : n = (s.height.toNat - 1 - y) * s.width.toNat + x)
    (hv : s.pixels n = v) :
    s.DrawnUpTo (n + 1) (Memory.writeFields m (pixelFields (pixelAddress y (strideOf s.width.toNat) x) v)) := by
  intro a hdue
  by_cases hpix : ∃ c, c < 3 ∧ a = pixelAddress y (strideOf s.width.toNat) x + c
  · obtain ⟨c, hc, rfl⟩ := hpix
    have hlast := pixelAddress_lt (st := strideOf s.width.toNat) hy hx
    have htop := topRow_le_fileLengthOf (w := s.width.toNat) (h := s.height.toNat) (by omega)
    rw [Memory.read_writePixel_byte _ _ _ hc, State.finalByte, if_pos (by omega),
      getElem?_bmpFile_pixel _ _ _ hy hx hc, ← hn, hv]
  · rw [Memory.read_writePixel_of_ne _ _ fun c hc heq => hpix ⟨c, hc, heq⟩]
    refine h a fun ⟨y', x', c, hy', hx', hc, hn', ha⟩ => ?_
    obtain heq | hlt := Nat.eq_or_lt_of_le hn'
    · obtain ⟨rfl, rfl⟩ := pixel_eq_of_index_eq hy hy' hx hx' (hn.symm.trans heq)
      exact hpix ⟨c, hc, ha⟩
    · exact hdue ⟨y', x', c, hy', hx', hc, hlt, ha⟩

/-- Once no pixel is due, every byte is final. -/
theorem State.DrawnUpTo.complete {s : State} {m : Memory} (h : s.DrawnUpTo (s.width.toNat * s.height.toNat) m) (a : Nat) :
    Memory.read m a = s.finalByte a := by
  refine h a fun ⟨y, x, c, hy, hx, _, hn, _⟩ => ?_
  exact absurd (pixelIndex_lt hy hx) hn.not_gt

theorem execXpix_out {s t : State} {v : Word} (h : execXpix s = .next t) (hv : s.pixWord s.p = some v) :
    t.out = Memory.writeFields s.out (pixelFields (pixelAddress s.y.toNat s.stride.toNat s.x.toNat) v) := by
  obtain ⟨w, -, hw, -, rfl⟩ := execXpix_next h
  obtain rfl := Option.some.inj (hw.symm.trans hv)
  obtain ⟨hout, -⟩ := advance_frame (s.withOut (Memory.writeFields s.out
    (pixelFields (pixelAddress s.y.toNat s.stride.toNat s.x.toNat) w)))
  exact hout

/-- The pixel of the last column in destination row 0 has the last index. -/
theorem lastPixelIndex_succ {w h x : Nat} (hh : 0 < h) (hx : x + 1 = w) : (h - 1 - 0) * w + x + 1 = w * h := by
  obtain ⟨h, rfl⟩ : ∃ k, h = k + 1 := ⟨h - 1, by omega⟩
  rw [Nat.sub_zero, Nat.add_sub_cancel, Nat.add_assoc, hx, Nat.mul_comm w, Nat.succ_mul]

/-- The state in which n pixels of the file of s are drawn: in the loop, or past it with the last one. -/
structure LoopAt (s : State) (n : Nat) (t : State) : Prop where
  index : t.p.toNat = n
  drawn : s.DrawnUpTo n t.out
  phase : (t.phase = .xpix ∧ n < s.width.toNat * s.height.toNat) ∨ (t.phase = .ret ∧ n = s.width.toNat * s.height.toNat)

section
variable {s t : State} {n k : Nat}

theorem LoopAt.phase_of_lt (h : LoopAt s n t) (hn : n < s.width.toNat * s.height.toNat) : t.phase = .xpix := by
  obtain ⟨hq, -⟩ | ⟨-, hend⟩ := h.phase
  · exact hq
  · omega

theorem LoopAt.phase_of_eq (h : LoopAt s n t) (hn : n = s.width.toNat * s.height.toNat) : t.phase = .ret := by
  obtain ⟨-, hlt⟩ | ⟨hq, -⟩ := h.phase
  · omega
  · exact hq

/-- The word XPIX reads at n pixels drawn is word n of PIX as it was at START. -/
theorem LoopAt.pixWord_eq (hl : LoopAt s n t) (hr : Reaches s k t) : t.pixWord t.p = s.pixWord (BitVec.ofNat 32 n) := by
  have ⟨_, _, _, hpix, _⟩ := hr.host
  rw [← hl.index, BitVec.ofNat_toNat, BitVec.setWidth_eq, State.pixWord, State.pixWord, hpix]

/-- A written pixel is drawn, and P's index decides whether the loop ends with it (R172, R174). -/
theorem LoopAt.next (hl : LoopAt s n t) (hr : Reaches s k t) (ha : s.agenda = [])
    (hn : n < s.width.toNat * s.height.toNat) {v : Word} (hv : s.pixWord (BitVec.ofNat 32 n) = some v) :
    ∃ u, Reaches s (k + 1) u ∧ LoopAt s (n + 1) u := by
  have hq := hl.phase_of_lt hn
  have hf := hr.facts
  rw [hq] at hf
  obtain ⟨hlast, hfile, -, hplen⟩ := hf.xpix_bounds
  obtain ⟨-, ⟨hfits, -⟩, hy, hx, hidx⟩ := hf
  obtain ⟨hst, -, -⟩ := hr.geometry (by rw [hq]; rfl)
  have hvt := (hl.pixWord_eq hr).trans hv
  obtain ⟨u, hexec⟩ : ∃ u, execXpix t = .next u := ⟨_, execXpix_of_written hplen hvt (by omega)⟩
  have hru := hr.next ha (i := .xpix) (by rw [hq]; rfl) hexec
  have hp : u.p.toNat = n + 1 := (xpixRaisesPByOne t u hexec).trans (congrArg (· + 1) hl.index)
  have ⟨hw, hh, _⟩ := hr.host
  rw [hh] at hy hidx
  rw [hw] at hx hidx
  refine ⟨u, hru, hp, ?drawn, ?phase⟩
  case drawn =>
    rw [execXpix_out hexec hvt, hst]
    exact hl.drawn.succ hy hx (hl.index.symm.trans hidx) (State.pixContents_of_written hv)
  case phase =>
    obtain hqu | ⟨hqu, hend, hy0⟩ := execXpix_phase hexec
    · have hfu := hru.facts
      have ⟨hwu, hhu, _⟩ := hru.host
      rw [hqu, hq] at hfu
      obtain ⟨-, -, hpu, -⟩ := hfu.xpix_bounds
      rw [hp, hwu, hhu] at hpu
      exact .inl ⟨hqu.trans hq, hpu⟩
    · rw [hw] at hend
      refine .inr ⟨hqu, ?_⟩
      rw [← hl.index, hidx, hy0]
      exact lastPixelIndex_succ (Nat.zero_lt_of_lt hy) (by omega)

end

/-- While the pixels are written, the loop reaches each of them in the order of P (R178). -/
theorem reaches_pixel {s : State} (ha : s.agenda = []) (hpass : s.OperandsPass) {n : Nat}
    (hn : n ≤ s.width.toNat * s.height.toNat)
    (hpix : ∀ m, m < n → (s.pixWord (BitVec.ofNat 32 m)).isSome = true) :
    ∃ t, Reaches s (6 + n) t ∧ LoopAt s n t := by
  induction n with
  | zero =>
    obtain ⟨t, ht, hq, hp, hread⟩ := reaches_xpix ha hpass
    obtain ⟨⟨⟨hw0, hh0⟩, -⟩, -⟩ := hpass
    exact ⟨t, ht, hp, State.drawnUpTo_zero hread, .inl ⟨hq, Nat.mul_pos (by omega) (by omega)⟩⟩
  | succ n ih =>
    obtain ⟨t, ht, hl⟩ := ih (by omega) fun m hm => hpix m (by omega)
    obtain ⟨v, hv⟩ := Option.isSome_iff_exists.1 (hpix n (Nat.lt_succ_self n))
    exact hl.next ht ha hn hv

end Sys2Proof.Machine
end

section
/-! The whole operation against the big-step function: its end state and step count in every case (R191, R192, R249), and
what follows for two operations (R194, R195). -/

namespace Sys2Proof.Machine

/-! ### Results -/

theorem exec_encode_of_settled {s : State} (hq : s.phase = .idle ∨ s.phase = .done ∨ s.phase = .error) :
    exec .encode s = .next s.start :=
  execEncode_of_hostIdle (s.phase.hostIdle_iff.2 hq)

/-- An operation that passes every check gives its file, or lacks a pixel (R249). -/
theorem State.encodeMeaning_of_operandsPass {s : State} (hpass : s.OperandsPass) :
    (s.PixelsWritten ∧ s.encodeMeaning = .done (bmpFile s.width.toNat s.height.toNat s.pixels)) ∨
      (¬ s.PixelsWritten ∧ s.encodeMeaning = .refused) := by
  obtain ⟨hres, -⟩ := encode_of_operandsPass s.pixels hpass
  by_cases hpix : s.PixelsWritten
  · exact .inl ⟨hpix, State.encodeMeaning_done_iff.2 ⟨hres, hpix⟩⟩
  · exact .inr ⟨hpix, State.encodeMeaning_refused_iff.2 ⟨⟨_, hres⟩, hpix⟩⟩

theorem State.operandsPass_of_done {s : State} {file : List Byte} (h : s.encodeMeaning = .done file) :
    s.OperandsPass ∧ s.PixelsWritten ∧ file = bmpFile s.width.toNat s.height.toNat s.pixels := by
  obtain ⟨hres, hpix⟩ := State.encodeMeaning_done_iff.1 h
  obtain ⟨hpass, hfile⟩ := encodeResult_done hres
  exact ⟨hpass, hpix, hfile⟩

theorem State.operandsPass_of_refused {s : State} (h : s.encodeMeaning = .refused) :
    s.OperandsPass ∧ ¬ s.PixelsWritten := by
  obtain ⟨⟨file, hres⟩, hpix⟩ := State.encodeMeaning_refused_iff.1 h
  exact ⟨(encodeResult_done hres).1, hpix⟩

theorem State.encodeStepCount_of_operandsPass {s : State} (hpass : s.OperandsPass) :
    s.encodeStepCount = 7 + s.width.toNat * s.height.toNat :=
  (encode_of_operandsPass s.pixels hpass).2

/-! ### End states -/

section
variable {s t : State} {n : Nat}

theorem Reaches.operands (h : Reaches s n t) :
    t.width = s.width ∧ t.height = s.height ∧ t.pixlen = s.pixlen ∧ t.pix = s.pix := by
  obtain ⟨hw, hh, hl, hp, -⟩ := h.host
  exact ⟨hw, hh, hl, hp⟩

/-- A raise that leaves OUT ends the operation with its typed error (R215, R218). -/
theorem Reaches.endState_raise {e : TypedError} (h : Reaches s n (t.raise e)) (hout : t.out = s.out) :
    EndState s (t.raise e) (.error e) := by
  obtain ⟨-, hlen⟩ : (t.raise e).PhaseFacts .error := h.facts
  exact ⟨h.operands, rfl, rfl, hlen, hout⟩

/-- The halt leaves OUT too (R214). -/
theorem Reaches.endState_halt (h : Reaches s n t.haltOutOfMemory) (hout : t.out = s.out) :
    EndState s t.haltOutOfMemory .halt := by
  obtain ⟨-, hlen⟩ : t.haltOutOfMemory.PhaseFacts .halt := h.facts
  exact ⟨h.operands, rfl, rfl, hlen, hout⟩

end

/-- RET after the last pixel hands over the complete file, and nothing above it was written (R193, R199). -/
theorem reaches_done {s : State} (ha : s.agenda = []) (hpass : s.OperandsPass) (hpix : s.PixelsWritten) :
    ∃ t, Reaches s (7 + s.width.toNat * s.height.toNat) t ∧
      EndState s t (.done (bmpFile s.width.toNat s.height.toNat s.pixels)) ∧
      ∀ a, fileLengthOf s.width.toNat s.height.toNat ≤ a → Memory.read t.out a = Memory.read s.out a := by
  obtain ⟨t, ht, hl⟩ := reaches_pixel ha hpass le_rfl hpix
  have hq := hl.phase_of_eq rfl
  obtain ⟨-, -, hflen⟩ := ht.geometry (by rw [hq]; rfl)
  have hu := ht.next ha (i := .ret) (by rw [hq]; rfl) rfl
  obtain ⟨herr, -⟩ : ((t.withOutlen t.flen).withPhase .done).PhaseFacts .done := hu.facts
  have hread : ∀ a, Memory.read t.out a = s.finalByte a := hl.drawn.complete
  refine ⟨(t.withOutlen t.flen).withPhase .done, ?_, ⟨hu.operands, rfl, herr, ?_, fun a hlt => ?_⟩, fun a hle => ?_⟩
  · have hsteps : 7 + s.width.toNat * s.height.toNat = 6 + s.width.toNat * s.height.toNat + 1 := by omega
    rw [hsteps]
    exact hu
  · exact hflen.trans (length_bmpFile _ _ _).symm
  · rw [length_bmpFile] at hlt
    exact (hread a).trans (if_pos hlt)
  · exact (hread a).trans (if_neg hle.not_gt)

/-- Settles O51: the run of an operation whose pixels are written, to its end. -/
theorem successfulRunRefinesBigStep : Obligations.SuccessfulRunRefinesBigStep := by
  intro s file ha hq hdone
  obtain ⟨hpass, hpix, rfl⟩ := State.operandsPass_of_done hdone
  obtain ⟨t, ht, hend, habove⟩ := reaches_done ha hpass hpix
  rw [length_bmpFile]
  exact ⟨s.start, t, exec_encode_of_settled hq, ht.run, hend, habove⟩

/-- The run of an operation that a check stops, to its end (R191, R192). -/
theorem reaches_failure {s : State} (ha : s.agenda = []) (hpass : ¬ s.OperandsPass) :
    ∃ t, Reaches s s.encodeStepCount t ∧ EndState s t s.encodeMeaning ∧ s.encodeStepCount ≤ 4 := by
  have hres (file : List Byte) :
      encodeResult s.outCap s.width.toNat s.height.toNat s.pixlen.toNat s.pixels ≠ .done file :=
    fun h => hpass (encodeResult_done h).1
  rw [State.encodeMeaning_of_not_done hres, State.encodeStepCount]
  have hcase := encodeCase s.outCap s.width.toNat s.height.toNat s.pixlen.toNat s.pixels
  generalize encodeResult s.outCap s.width.toNat s.height.toNat s.pixlen.toNat s.pixels = r at hcase ⊢
  generalize encodeSteps s.outCap s.width.toNat s.height.toNat s.pixlen.toNat = k at hcase ⊢
  cases hcase with
  | badDimension hd =>
    obtain ⟨t, ht, hout⟩ := reaches_badDimension ha hd
    exact ⟨_, ht, ht.endState_raise hout, by decide⟩
  | tooLong hd hf =>
    obtain ⟨t, ht, hout⟩ := reaches_tooLong ha hd hf
    exact ⟨_, ht, ht.endState_raise hout, by decide⟩
  | short hd hf hl =>
    obtain ⟨t, ht, hout⟩ := reaches_short ha hd hf hl
    exact ⟨_, ht, ht.endState_raise hout, by decide⟩
  | halt hd hf hl hc =>
    obtain ⟨t, ht, hout⟩ := reaches_halt ha hd hf hl hc
    exact ⟨_, ht, ht.endState_halt hout, by decide⟩
  | file h => exact absurd h hpass

/-- Every operation that is not refused runs to the end state of the big-step function in the step count of R192. -/
theorem reaches_end {s : State} (ha : s.agenda = []) (hr : s.encodeMeaning ≠ .refused) :
    ∃ t, Reaches s s.encodeStepCount t ∧ EndState s t s.encodeMeaning := by
  by_cases hpass : s.OperandsPass
  · obtain ⟨hpix, hdone⟩ | ⟨-, hrefused⟩ := State.encodeMeaning_of_operandsPass hpass
    · obtain ⟨t, ht, hend, -⟩ := reaches_done ha hpass hpix
      rw [hdone, State.encodeStepCount_of_operandsPass hpass]
      exact ⟨t, ht, hend⟩
    · exact absurd hrefused hr
  · obtain ⟨t, ht, hend, -⟩ := reaches_failure ha hpass
    exact ⟨t, ht, hend⟩

/-- Settles O52: an operation that gives neither a file nor a refusal is stopped by a check. -/
theorem failingRunRefinesBigStep : Obligations.FailingRunRefinesBigStep := by
  intro s ha hq hdone hrefused
  have hpass : ¬ s.OperandsPass := fun hpass =>
    (State.encodeMeaning_of_operandsPass hpass).elim (fun h => hdone _ h.2) fun h => hrefused h.2
  obtain ⟨t, ht, hend, hle⟩ := reaches_failure ha hpass
  exact ⟨s.start, t, exec_encode_of_settled hq, ht.run, hend, hle⟩

/-! ### The refusal (R249) -/

/-- Where a pixel was never written there is a first one in the order of P. -/
theorem State.exists_first_missing {s : State} (h : ¬ s.PixelsWritten) :
    ∃ n, n < s.width.toNat * s.height.toNat ∧ s.pixWord (BitVec.ofNat 32 n) = none ∧
      ∀ m, m < n → (s.pixWord (BitVec.ofNat 32 m)).isSome = true := by
  simp only [State.PixelsWritten, not_forall, Option.not_isSome_iff_eq_none] at h
  have hex : ∃ n, n < s.width.toNat * s.height.toNat ∧ s.pixWord (BitVec.ofNat 32 n) = none := by
    obtain ⟨n, hn, hnone⟩ := h
    exact ⟨n, hn, hnone⟩
  obtain ⟨hn, hnone⟩ := Nat.find_spec hex
  refine ⟨Nat.find hex, hn, hnone, fun m hm => ?_⟩
  have hmin := Nat.find_min hex hm
  rw [← Option.ne_none_iff_isSome]
  exact fun hnone => hmin ⟨hm.trans hn, hnone⟩

/-- The loop stops at the first missing pixel: its index is below PIXLEN, so it is the word that MemRead lacks (R62). -/
theorem LoopAt.refused {s t : State} {n k : Nat} (hl : LoopAt s n t) (ht : Reaches s k t) (ha : s.agenda = [])
    (hn : n < s.width.toNat * s.height.toNat) (hnone : s.pixWord (BitVec.ofNat 32 n) = none) :
    step t = .refused .pixWordNeverWritten := by
  have hq := hl.phase_of_lt hn
  have hf := ht.facts
  rw [hq] at hf
  obtain ⟨-, -, -, hplen⟩ := hf.xpix_bounds
  have ⟨_, _, _, _, _, _, hagenda, _⟩ := ht.host
  rw [step_of_decodes (i := .xpix) (hagenda.trans ha) (by rw [hq]; rfl)]
  exact execXpix_of_absent (State.memReadPix_of_unwritten hplen ((hl.pixWord_eq ht).trans hnone))

theorem runSteps_refused_of_missing {s : State} (ha : s.agenda = []) (hr : s.encodeMeaning = .refused) :
    ∃ n, n < s.width.toNat * s.height.toNat ∧ s.pixWord (BitVec.ofNat 32 n) = none ∧
      (∀ m, m < n → (s.pixWord (BitVec.ofNat 32 m)).isSome = true) ∧
      runSteps (7 + n) s.start = .refused .pixWordNeverWritten := by
  obtain ⟨hpass, hpix⟩ := State.operandsPass_of_refused hr
  obtain ⟨n, hn, hnone, hfirst⟩ := State.exists_first_missing hpix
  obtain ⟨t, ht, hl⟩ := reaches_pixel ha hpass hn.le hfirst
  refine ⟨n, hn, hnone, hfirst, ?_⟩
  have hsteps : 7 + n = 6 + n + 1 := by omega
  rw [hsteps, runSteps_add ht.run, runSteps_one, hl.refused ht ha hn hnone]

/-- Settles O53: the loop draws the pixels before the first missing one and stops there. -/
theorem missingPixelRefusesTheRun : Obligations.MissingPixelRefusesTheRun := by
  intro s ha hq hr
  obtain ⟨n, hn, hnone, hfirst, hrun⟩ := runSteps_refused_of_missing ha hr
  exact ⟨s.start, n, exec_encode_of_settled hq, hn, hnone, hfirst, hrun⟩

/-- A refused run stays refused. -/
theorem runSteps_add_of_refused {m : Nat} (k : Nat) {s : State} {r : Refusal} (h : runSteps m s = .refused r) :
    runSteps (m + k) s = .refused r := by
  induction m generalizing s with
  | zero => cases h
  | succ m ih =>
    rw [runSteps] at h
    rw [Nat.succ_add, runSteps]
    cases hs : step s with
    | next t =>
      rw [hs] at h
      exact ih h
    | fault f => rw [hs] at h; cases h
    | refused r' => rw [hs] at h; exact h

/-- An operation that runs to its end is not refused, and ends as the big-step function says. -/
theorem reaches_of_runSteps {s t : State} (ha : s.agenda = []) (hrun : runSteps s.encodeStepCount s.start = .next t) :
    Reaches s s.encodeStepCount t ∧ EndState s t s.encodeMeaning := by
  have hr : s.encodeMeaning ≠ .refused := by
    intro hr
    obtain ⟨n, hn, -, -, hstop⟩ := runSteps_refused_of_missing ha hr
    obtain ⟨k, hk⟩ := Nat.exists_eq_add_of_lt hn
    obtain ⟨hpass, -⟩ := State.operandsPass_of_refused hr
    have hlate := runSteps_add_of_refused (k + 1) hstop
    rw [State.encodeStepCount_of_operandsPass hpass, hk, ← Nat.add_assoc, ← Nat.add_assoc] at hrun
    rw [← Nat.add_assoc, hrun] at hlate
    cases hlate
  obtain ⟨u, hu, hend⟩ := reaches_end ha hr
  obtain rfl := Host.Outcome.next.inj (hu.run.symm.trans hrun)
  exact ⟨hu, hend⟩

/-! ### Two operations -/

section
variable {s t : State} {r : EncodeResult}

/-- A refused operation has no end state. -/
theorem EndState.ne_refused (h : EndState s t r) : r ≠ .refused := by
  rintro rfl
  exact h.2

/-- The operation ends in DONE, ERROR or HALT (R191). -/
theorem EndState.phase (h : EndState s t r) :
    t.phase = .done ∨ t.phase = .error ∨ (t.phase = .halt ∧ r = .halt) := by
  obtain ⟨-, h⟩ := h
  cases r with
  | done file => exact .inl h.1
  | error e => exact .inr (.inl h.1)
  | halt => exact .inr (.inr ⟨h.1, rfl⟩)
  | refused => exact h.elim

end

/-- Two operations with one result look alike to HOST (R195). -/
theorem EndState.sameResult {s s' t t' : State} {r : EncodeResult} (h : EndState s t r) (h' : EndState s' t' r) :
    SameResult t t' := by
  obtain ⟨-, h⟩ := h
  obtain ⟨-, h'⟩ := h'
  cases r with
  | done file =>
    obtain ⟨hq, he, hl, hread⟩ := h
    obtain ⟨hq', he', hl', hread'⟩ := h'
    refine ⟨hq'.trans hq.symm, he'.trans he.symm, BitVec.eq_of_toNat_eq (hl'.trans hl.symm), fun a ha => ?_⟩
    rw [hl] at ha
    exact (hread' a ha).trans (hread a ha).symm
  | error e | halt =>
    obtain ⟨hq, he, hl, -⟩ := h
    obtain ⟨hq', he', hl', -⟩ := h'
    refine ⟨hq'.trans hq.symm, he'.trans he.symm, hl'.trans hl.symm, fun a ha => ?_⟩
    rw [hl] at ha
    cases ha
  | refused => exact h.elim

/-- A result without a file does not depend on the pixels. -/
theorem encodeResult_eq_of_not_done {outCap w h l : Nat} {pix : Nat → Word} (pix' : Nat → Word)
    (hne : ¬ OperandsPass outCap w h l) : encodeResult outCap w h l pix' = encodeResult outCap w h l pix := by
  unfold encodeResult
  split_ifs with hzero hmax hlong hshort hcap
  case neg =>
    refine absurd ⟨⟨not_or.1 hzero, ?_⟩, not_lt.1 hlong, not_lt.1 hshort, not_lt.1 hcap⟩ hne
    exact ⟨not_lt.1 (not_or.1 hmax).1, not_lt.1 (not_or.1 hmax).2⟩
  all_goals rfl

/-- The result depends on the operands and the colour bytes alone (R194). -/
theorem SameInputs.encodeMeaning_eq {s t : State} (h : SameInputs s t) (hs : s.encodeMeaning ≠ .refused)
    (ht : t.encodeMeaning ≠ .refused) : t.encodeMeaning = s.encodeMeaning := by
  obtain ⟨hw, hh, hl, hc, hpix⟩ := h
  by_cases hpass : s.OperandsPass
  · have hpass' : t.OperandsPass := by rwa [State.OperandsPass, hw, hh, hl, hc]
    obtain ⟨-, hdone⟩ := (State.encodeMeaning_of_operandsPass hpass).resolve_right fun hr => hs hr.2
    obtain ⟨-, hdone'⟩ := (State.encodeMeaning_of_operandsPass hpass').resolve_right fun hr => ht hr.2
    rw [hdone, hdone', hw, hh]
    exact congrArg _ (alphaAndSurplusWordsAreIgnored _ _ _ _ (hpix ⟨_, hdone⟩))
  · have hres (pix : Nat → Word) (file : List Byte) :
        encodeResult s.outCap s.width.toNat s.height.toNat s.pixlen.toNat pix ≠ .done file :=
      fun h => hpass (encodeResult_done h).1
    have hs' := State.encodeMeaning_of_not_done (hres s.pixels)
    have ht' : t.encodeMeaning = encodeResult t.outCap t.width.toNat t.height.toNat t.pixlen.toNat t.pixels :=
      State.encodeMeaning_of_not_done (by rw [hw, hh, hl, hc]; exact hres t.pixels)
    rw [hs', ht', hw, hh, hl, hc]
    exact encodeResult_eq_of_not_done _ hpass

/-- Settles O54: both runs end as the big-step function says, and it says the same of both. -/
theorem resultDependsOnInputsAlone : Obligations.ResultDependsOnInputsAlone := by
  intro s1 s2 a1 a2 t1 t2 ha1 ha2 hq1 hq2 hsame he1 he2 hrun1 hrun2
  obtain rfl := Host.Outcome.next.inj ((exec_encode_of_settled hq1).symm.trans he1)
  obtain rfl := Host.Outcome.next.inj ((exec_encode_of_settled hq2).symm.trans he2)
  obtain ⟨-, hend1⟩ := reaches_of_runSteps ha1 hrun1
  obtain ⟨-, hend2⟩ := reaches_of_runSteps ha2 hrun2
  rw [hsame.encodeMeaning_eq hend1.ne_refused hend2.ne_refused] at hend2
  exact hend1.sameResult hend2

/-- What HOST owns decides the result and the step count. -/
theorem SameHostSide.encodeMeaning_eq {s t : State} (h : SameHostSide s t) :
    t.encodeMeaning = s.encodeMeaning ∧ t.encodeStepCount = s.encodeStepCount := by
  obtain ⟨hw, hh, hl, hp, hr, hc, -⟩ := h
  have hword (i : Word) : t.pixWord i = s.pixWord i := by rw [State.pixWord, State.pixWord, hp]
  have hpixels : t.pixels = s.pixels := by
    funext i
    rw [State.pixels, State.pixels, State.pixContents, State.pixContents, hword, hr]
  refine ⟨?_, ?_⟩
  · simp only [State.encodeMeaning, State.PixelsWritten, hw, hh, hl, hc, hpixels, hword]
  · rw [State.encodeStepCount, State.encodeStepCount, hw, hh, hl, hc]

/-- Settles O55: the first run leaves HOST's side as it was, so the second has the same result and step count. -/
theorem repeatedOperationGivesTheSameResult : Obligations.RepeatedOperationGivesTheSameResult := by
  intro s a t ha hq hhalt he hrun
  obtain rfl := Host.Outcome.next.inj ((exec_encode_of_settled hq).symm.trans he)
  obtain ⟨ht, hend⟩ := reaches_of_runSteps ha hrun
  obtain ⟨hmeaning, hcount⟩ := ht.host.encodeMeaning_eq
  have ⟨_, _, _, _, _, _, hagenda, _⟩ := ht.host
  have hq' : t.phase = .done ∨ t.phase = .error := by
    obtain h | h | ⟨-, h⟩ := hend.phase
    · exact .inl h
    · exact .inr h
    · exact absurd h hhalt
  obtain ⟨t', ht', hend'⟩ := reaches_end (hagenda.trans ha) (hmeaning.trans_ne hend.ne_refused)
  rw [hmeaning] at hend'
  rw [hcount] at ht'
  exact ⟨t.start, t', exec_encode_of_settled (.inr hq'), ht'.run, hend.sameResult hend'⟩

end Sys2Proof.Machine
end

section
/-! The call `encode(pixels, width, height)` (R112): its arguments put in place, the collection of the output, and its result
against the big-step function. -/

namespace Sys2Proof.Machine

/-! ### The arguments (R77, R111) -/

/-- A run of n writes to PIX, outside BUSY: pixel j stands at its index, every other word is as before. -/
theorem runSteps_writePixels {s : State} {rest : List HostAction} {i : Nat} {words : List Word}
    (hq : s.phase.busy = false) (hlen : i + words.length ≤ 2 ^ 32) (ha : s.agenda = encodeCallFrom i words ++ rest) :
    ∃ m, runSteps words.length s = .next ((s.withAgenda rest).withPix m) ∧
      (∀ j, j < words.length → (s.withPix m).pixWord (BitVec.ofNat 32 (i + j)) = words[j]?) ∧
      ∀ k, (k.toNat < i ∨ i + words.length ≤ k.toNat) → (s.withPix m).pixWord k = s.pixWord k := by
  induction words generalizing s i with
  | nil =>
    obtain rfl : s.agenda = rest := ha
    exact ⟨s.pix, rfl, nofun, fun _ _ => rfl⟩
  | cons w words ih =>
    rw [List.length_cons] at hlen
    have hstep := step_writePix_of_not_busy (rest := encodeCallFrom (i + 1) words ++ rest) ha hq
    obtain ⟨m, hrun, hin, hout⟩ := ih (s := (s.withAgenda (encodeCallFrom (i + 1) words ++ rest)).storePixWord _ w)
      (i := i + 1) hq (by omega) rfl
    have hi : (BitVec.ofNat 32 i).toNat = i := toNat_ofNat_of_lt (by omega)
    refine ⟨m, (runSteps_succ hstep).trans hrun, fun j hj => ?_, fun k hk => ?_⟩
    · cases j with
      | zero => exact (hout _ (.inl (by rw [Nat.add_zero, hi]; omega))).trans (s.pixWord_storePixWord _ w)
      | succ j =>
        rw [← Nat.succ_add_eq_add_succ]
        exact hin j (Nat.lt_of_succ_lt_succ hj)
    · rw [List.length_cons] at hk
      refine (hout k (by omega)).trans (s.pixWord_storePixWord_of_ne fun heq => ?_)
      rw [heq, hi] at hk
      omega

section
variable {s : State} {rest : List HostAction} (hq : s.phase = .idle ∨ s.phase = .done ∨ s.phase = .error)
include hq

theorem step_writeWidth {v : Word} (ha : s.agenda = .writeReg .width v :: rest) :
    step s = .next ((s.withAgenda rest).withWidth v) := by
  obtain ⟨hwidth, -, -⟩ := (operandsAreWriteLocked s rest v).2 hq
  exact hwidth ha

theorem step_writeHeight {v : Word} (ha : s.agenda = .writeReg .height v :: rest) :
    step s = .next ((s.withAgenda rest).withHeight v) := by
  obtain ⟨-, hheight, -⟩ := (operandsAreWriteLocked s rest v).2 hq
  exact hheight ha

theorem step_writePixlen {v : Word} (ha : s.agenda = .writeReg .pixlen v :: rest) :
    step s = .next ((s.withAgenda rest).withPixlen v) := by
  obtain ⟨-, -, hpixlen⟩ := (operandsAreWriteLocked s rest v).2 hq
  exact hpixlen ha

/-- The three operand writes of the call, where HOST may write the operands (R40). -/
theorem runSteps_writeOperands {w h l : Word}
    (ha : s.agenda = .writeReg .width w :: .writeReg .height h :: .writeReg .pixlen l :: rest) :
    runSteps 3 s = .next ((((s.withAgenda rest).withWidth w).withHeight h).withPixlen l) := by
  have hheight := step_writeHeight (rest := .writeReg .pixlen l :: rest)
    (s := (s.withAgenda (.writeReg .height h :: .writeReg .pixlen l :: rest)).withWidth w) hq rfl
  have hpixlen := step_writePixlen (rest := rest)
    (s := ((s.withAgenda (.writeReg .pixlen l :: rest)).withWidth w).withHeight h) hq rfl
  exact (runSteps_succ (step_writeWidth hq ha)).trans ((runSteps_succ hheight).trans (runSteps_succ hpixlen))

end

/-- Settles O56: the pixel writes, then the operand writes. -/
theorem callPutsItsArgumentsInPlace : Obligations.CallPutsItsArgumentsInPlace := by
  intro s pixels w h rest hq hlen ha
  have htake : pixels.take (2 ^ 32 - 1) = pixels := List.take_of_length_le (by omega)
  simp only [encodeCall, htake, List.append_assoc] at ha
  obtain ⟨m, hrun, hin, -⟩ := runSteps_writePixels (not_busy_of_settled hq) (by omega) ha
  refine ⟨_, (runSteps_add hrun).trans (runSteps_writeOperands ?settled rfl), rfl, rfl, rfl, toNat_ofNat_of_lt hlen,
    fun i hi => ?pixel, ⟨rfl, rfl, rfl, rfl, rfl, rfl, rfl, rfl, rfl, rfl⟩, rfl, rfl⟩
  case settled => exact hq
  case pixel =>
    have hword := hin i hi
    rwa [Nat.zero_add] at hword

/-! ### The collection (log 25) -/

/-- What HOST gets back from reading the addresses of l. -/
def State.outReplies (s : State) (l : List Word) : List Reply := l.map fun a => .outByte a (s.outContents a.toNat)

theorem bytesOf_outReplies (s : State) (l : List Word) :
    bytesOf (s.outReplies l) = l.map fun a => s.outContents a.toNat := by
  induction l with
  | nil => rfl
  | cons a l ih => exact congrArg (s.outContents a.toNat :: ·) ih

/-- In DONE a run of reads below OUTLEN answers each in order. -/
theorem runSteps_reads {s : State} {l : List Word} {rest : List HostAction} (hq : s.phase = .done)
    (hl : ∀ a, a ∈ l → a.toNat < s.outlen.toNat) (ha : s.agenda = l.map .readOut ++ rest) :
    runSteps l.length s = .next { s with agenda := rest, replies := s.replies ++ s.outReplies l } := by
  induction l generalizing s with
  | nil =>
    obtain rfl : s.agenda = rest := ha
    rw [List.length_nil, runSteps_zero, State.outReplies, List.map_nil, List.append_nil]
  | cons a l ih =>
    have hstep := step_readOut_of_done (rest := l.map .readOut ++ rest) ha hq (hl a List.mem_cons_self)
    rw [List.length_cons, runSteps_succ hstep]
    refine (ih (s := (s.withAgenda (l.map .readOut ++ rest)).withReply _) hq
      (fun b hb => hl b (List.mem_cons_of_mem _ hb)) rfl).trans ?_
    rw [State.replies_withReply, State.replies_withAgenda, List.append_assoc]
    rfl

/-- The addresses 0 to OUTLEN - 1. -/
def State.outAddresses (s : State) : List Word := (List.range s.outlen.toNat).map (BitVec.ofNat 32)

theorem readsOfOut_eq (s : State) : readsOfOut s.outlen.toNat = s.outAddresses.map .readOut := by
  rw [readsOfOut, State.outAddresses, List.map_map]
  rfl

/-- The collection reads all of the output, and changes nothing else. -/
theorem runSteps_collect {s : State} {rest : List HostAction} (hq : s.phase = .done) (ha : s.agenda = .collect :: rest) :
    runSteps (1 + s.outlen.toNat) s =
      .next { s with agenda := rest, replies := s.replies ++ s.outReplies s.outAddresses } := by
  have hlen : s.outAddresses.length = s.outlen.toNat := by simp [State.outAddresses]
  have hstep := step_collect_of_done ha hq
  rw [readsOfOut_eq] at hstep
  rw [Nat.add_comm, runSteps_succ hstep, ← hlen]
  refine runSteps_reads (s := s.withAgenda _) hq (fun a ha => ?_) rfl
  obtain ⟨i, hi, rfl⟩ := List.mem_map.1 ha
  rw [List.mem_range] at hi
  exact (toNat_ofNat_of_lt (hi.trans s.outlen.isLt)).trans_lt hi

/-- The bytes HOST has then are the output, where every byte of it stands in OUT. -/
theorem bytesOf_collected {s : State} {file : List Byte} (hlen : s.outlen.toNat = file.length)
    (hread : ∀ a, a < file.length → Memory.read s.out a = file[a]?) :
    bytesOf (s.outReplies s.outAddresses) = file := by
  rw [bytesOf_outReplies, State.outAddresses, List.map_map, hlen]
  refine List.ext_getElem (by simp) fun a _ ha => ?_
  have hbyte := (hread a ha).trans (List.getElem?_eq_getElem ha)
  have haddr : (BitVec.ofNat 32 a).toNat = a := toNat_ofNat_of_lt (by have := s.outlen.isLt; omega)
  simp only [List.getElem_map, List.getElem_range, Function.comp_apply, haddr]
  exact State.outContents_of_written hbyte

/-- What the collection finds in OUT. -/
def State.output (s : State) : List Byte := (List.range s.outlen.toNat).map s.outContents

theorem State.length_output (s : State) : s.output.length = s.outlen.toNat := by
  simp [State.output]

theorem State.getElem?_output {s : State} {a : Nat} {b : Byte} (ha : a < s.outlen.toNat)
    (hb : Memory.read s.out a = some b) : s.output[a]? = some b := by
  simp [State.output, ha, State.outContents_of_written hb]

/-- Settles O57: under the invariant every byte below OUTLEN stands in OUT, so the collected bytes are the output. -/
theorem collectReadsTheWholeOutput : Obligations.CollectReadsTheWholeOutput := by
  intro s rest hs hq ha
  obtain ⟨-, -, -, hbytes⟩ := hs.outlenDone hq
  have hread (a : Nat) (hlt : a < s.outlen.toNat) : Memory.read s.out a = s.output[a]? := by
    obtain ⟨b, hb⟩ := Option.isSome_iff_exists.1 (hbytes a hlt)
    rw [hb, State.getElem?_output hlt hb]
  refine ⟨s.outReplies s.outAddresses, s.output, runSteps_collect hq ha, ?_, s.length_output, hread⟩
  rw [callResultOf_status, hq, bytesOf_collected s.length_output.symm fun a hlt => hread a (s.length_output ▸ hlt)]

/-! ### START, WAIT and the collection (R112, R191) -/

/-- The polls of WAIT run the operation that ENC would run alone, until it is no longer BUSY (log 6). -/
theorem exists_runSteps_wait {n : Nat} {s t : State} (rest : List HostAction) (ha : s.agenda = [])
    (hrun : runSteps n s = .next t) :
    ∃ m, runSteps m (s.withAgenda (.wait :: rest)) = .next (t.withAgenda (.wait :: rest)) := by
  induction n generalizing s with
  | zero => exact ⟨0, congrArg _ (congrArg (State.withAgenda · _) (Host.Outcome.next.inj hrun))⟩
  | succ n ih =>
    cases hs : step s with
    | fault r => rw [runSteps, hs] at hrun; cases hrun
    | refused r => rw [runSteps, hs] at hrun; cases hrun
    | next u =>
      rw [runSteps_succ hs] at hrun
      cases hb : s.phase.busy with
      | true =>
        obtain ⟨i, hi⟩ := s.phase.busy_iff_decodes.1 hb
        rw [step_of_decodes ha hi] at hs
        obtain ⟨m, hm⟩ := ih ((agenda_eq_of_exec hs).trans ha) hrun
        obtain ⟨-, -, hwait⟩ := stepRunsTheSelectedMicroOperation (s.withAgenda (.wait :: rest)) i hi
        exact ⟨m + 1, (runSteps_succ ((hwait rest rfl).trans (exec_withAgenda _ hs))).trans hm⟩
      | false =>
        rw [step_nil ha, encTurn_of_not_busy hb] at hs
        split at hs
        · cases hs
        · obtain rfl := Host.Outcome.next.inj hs
          exact ih ha hrun

/-- After the end of an operation the collection and the STATUS that ended WAIT give its result. -/
theorem exists_runSteps_collect {s t : State} {r : EncodeResult} {rest : List HostAction} (h : EndState s t r)
    (ha : t.agenda = .collect :: rest) :
    ∃ n u l, runSteps n t = .next u ∧ u.agenda = rest ∧ u.replies = t.replies ++ l ∧
      callResultOf (.reg .status t.status :: l) = r.callResult := by
  obtain ⟨-, h⟩ := h
  cases r with
  | done file =>
    obtain ⟨hq, -, hlen, hread⟩ := h
    refine ⟨_, _, _, runSteps_collect hq ha, rfl, rfl, ?_⟩
    rw [callResultOf_status, hq, bytesOf_collected hlen hread]
    rfl
  | error e =>
    obtain ⟨hq, he, -⟩ := h
    have hstep := step_collect_of_not_done ha (by rw [hq]; decide)
    refine ⟨1, _, [], (runSteps_one t).trans hstep, rfl, (List.append_nil _).symm, ?_⟩
    rw [callResultOf_status, hq, he]
    cases e <;> rfl
  | halt =>
    obtain ⟨hq, -⟩ := h
    have hstep := step_collect_of_not_done ha (by rw [hq]; decide)
    refine ⟨1, _, [], (runSteps_one t).trans hstep, rfl, (List.append_nil _).symm, ?_⟩
    rw [callResultOf_status, hq]
    rfl
  | refused => exact h.elim

/-- Settles O59: START, the operation under the polls of WAIT, the last poll, and the collection. -/
theorem callReturnsTheBigStepResult : Obligations.CallReturnsTheBigStepResult := by
  intro s rest hq ha hr
  obtain ⟨t, ht, hend⟩ := reaches_end (s := s.withAgenda []) rfl hr
  obtain ⟨m, hpolls⟩ := exists_runSteps_wait (.collect :: rest) rfl ht.run
  have hstart : step s = .next ((s.withAgenda []).start.withAgenda (.wait :: .collect :: rest)) :=
    (step_start ha).trans (execEncode_of_hostIdle (s.phase.hostIdle_iff.2 hq))
  have hbusy : t.phase.busy = false := by
    obtain h | h | ⟨h, -⟩ := hend.phase <;> rw [h] <;> rfl
  have hwait := step_wait_of_not_busy (s := t.withAgenda (.wait :: .collect :: rest)) rfl hbusy
  obtain ⟨k, u, l, hcollect, hagenda, hreplies, hresult⟩ := exists_runSteps_collect (rest := rest)
    (t := (t.withAgenda (.collect :: rest)).withReply (.reg .status t.status)) hend rfl
  refine ⟨m + (k + 1) + 1, u, .reg .status t.status :: l, ?_, hagenda, ?_, hresult⟩
  · rw [runSteps_succ hstart, runSteps_add hpolls, runSteps_succ hwait]
    exact hcollect
  · have ⟨_, _, _, _, _, _, _, hsame⟩ := ht.host
    have hsame : t.replies = s.replies := hsame
    rw [hreplies, State.replies_withReply, State.replies_withAgenda, hsame, List.append_assoc]
    rfl

end Sys2Proof.Machine
end
